-- ==== Sys2Proof/Word.lean ====
section
/-! DEFINITION. The two word types of the block: the byte of the buffers and command words, and the 16-bit
word of the registers ILEN, WIN, OLEN, WOUT and TID (spec/10_state.md R15). -/

namespace Sys2Proof

/-- An 8-bit value: a buffer byte, a character code or a command word (20_memory R35, 30_encoding R49). -/
abbrev Byte := BitVec 8

/-- An unsigned 16-bit value (10_state R15; 00_scope section 4: no rule uses signed arithmetic). -/
abbrev Word := BitVec 16

end Sys2Proof
end

