-- ==== Sys2Proof/Config.lean ====
section
/-! DEFINITION. What is fixed for one block (spec/00_scope.md R6) and the free values: constants without a body,
which stand for whatever the hardware gives where the spec gives no value. No proof can see what they are, so a
theorem about them holds for every choice. -/

namespace Sys2Proof.Config

/-- By how much IBUF's capacity exceeds 768; free within R6's bounds (log 3). -/
opaque maxLenSlack : Fin 64768

/-- `MAXLEN`, the capacity of IBUF in bytes: the OPEN parameter of 00_scope R6, 768 ≤ MAXLEN ≤ 65535. -/
def maxLen : Nat := maxLenSlack.val + 768

/-- `OMAXLEN = 3 · MAXLEN`, the capacity of OBUF in bytes (00_scope R6). -/
def oMaxLen : Nat := 3 * maxLen

/-- `MBAP_MAX_PDU` (00_scope R6, 43_mbap R90). -/
def mbapMaxPdu : Nat := 252

/-- `CRC_POLY`, reflected form (00_scope R6). -/
def crcPoly : Word := 0xA001#16

/-- `CRC_INIT` (00_scope R6). -/
def crcInit : Word := 0xFFFF#16

/-- `CRC_BITS_PER_BYTE` (00_scope R6). -/
def crcBitsPerByte : Nat := 8

/-- `MBAP_PROTOCOL_ID` (00_scope R6, 43_mbap R87). -/
def mbapProtocolId : Word := 0x0000#16

/-- Free value: how many host accesses and resets come before the engine's step of a command accepted at draw
`k`; finite but unbounded (70_reset R121; log 2). -/
opaque engineDelay (k : Nat) : Nat

/-- Free value: what the host's read number `n` returns if it reads a result register, or STATUS's CODE, FLAG and
OPRES, while BUSY = 1 (70_reset R117; log 6). -/
opaque busyWord (n : Nat) : Word

/-- Free value: what the host's read number `n` returns if it reads an OBUF byte while BUSY = 1 (70_reset R117;
log 6). -/
opaque busyByte (n : Nat) : Byte

/-- Free value: what the host's read number `n` returns if it reads an OBUF byte that is not defined, while BUSY = 0
(70_reset R118, 93_implementation_defined U7, U8; log 7). -/
opaque undefinedByte (n : Nat) : Byte

/-- Free value: what IBUF byte `i` reads as where the host has not written it since reset, from draw `k` to the next
host write or engine step (10_state R31, 20_memory R38; log 8). -/
opaque unwrittenByte (k i : Nat) : Byte

/-- Free value: the ILEN a command sees when the host wrote ILEN while it was outstanding (70_reset R116; log 9). -/
opaque disturbedLen (k : Nat) : Word

/-- Free value: the IPRES a command sees when the host wrote it while the command was outstanding (R116; log 9). -/
opaque disturbedPresent (k : Nat) : Bool

/-- Free value: the WIN a command sees when the host wrote it while the command was outstanding (R116; log 9). -/
opaque disturbedWord (k : Nat) : Word

/-- Free value: the IBUF byte `i` a command sees when the host wrote it while the command was outstanding
(R116; log 9). -/
opaque disturbedByte (k i : Nat) : Byte

/-- Free value: the 16-bit OLEN after an output of `n` bytes when `n` does not fit in 16 bits; the spec states no
value there (10_state R26, 41_hex_codec R74, 42_crc16 R80; log 10). -/
opaque oversizeLen (n : Nat) : Word

end Sys2Proof.Config
end

