-- ==== Sys2Proof/Syntax.lean ====
section
/-! DEFINITION. The commands of the block, one constructor per row of spec/opcode_table.json
(spec/30_encoding.md R50, R51). A command carries no operands: every operand comes from a register or IBUF (R49). -/

namespace Sys2Proof

/-- A command of the block. -/
inductive Instr where
  /-- 0x01: WIN to two bytes, low byte first (40_endian R63). -/
  | w16le
  /-- 0x02: two bytes, low byte first, to WOUT (40_endian R64). -/
  | lew16
  /-- 0x03: WIN to two bytes, high byte first (40_endian R65). -/
  | w16be
  /-- 0x04: two bytes, high byte first, to WOUT (40_endian R66). -/
  | bew16
  /-- 0x11: hex text to bytes (41_hex_codec R72). -/
  | h2b
  /-- 0x12: bytes to hex text (41_hex_codec R74). -/
  | b2h
  /-- 0x21: CRC-16 of the input to WOUT (42_crc16 R78). -/
  | crc
  /-- 0x22: the input followed by its CRC-16 (42_crc16 R80). -/
  | acrc
  /-- 0x23: check the CRC-16 at the end of the input (42_crc16 R81). -/
  | vcrc
  /-- 0x31: MBAP header and PDU (43_mbap R89). -/
  | mbap
  /-- One of the 246 reserved command words, which it carries (30_encoding R51). -/
  | reserved (word : Byte)
deriving DecidableEq, Repr

end Sys2Proof
end

