-- ==== Sys2Proof/WellFormed.lean ====
section
/-! DEFINITION. Which terms of Instr stand for a command word: the ten commands always, a reserved command only
with a word that spec/30_encoding.md R51 lists as reserved. -/

namespace Sys2Proof

/-- The command words R51 lists as reserved: 0x00, 0x05 to 0x10, 0x13 to 0x20, 0x24 to 0x30, 0x32 to 0xFF. -/
def isReservedWord (w : Byte) : Bool :=
  w == 0x00#8
    || (0x05#8 ≤ w && w ≤ 0x10#8)
    || (0x13#8 ≤ w && w ≤ 0x20#8)
    || (0x24#8 ≤ w && w ≤ 0x30#8)
    || (0x32#8 ≤ w && w ≤ 0xFF#8)

/-- A term that stands for a command word (30_encoding R50, R51). -/
def WellFormed : Instr → Bool
  | .w16le => true
  | .lew16 => true
  | .w16be => true
  | .bew16 => true
  | .h2b => true
  | .b2h => true
  | .crc => true
  | .acrc => true
  | .vcrc => true
  | .mbap => true
  | .reserved w => isReservedWord w

end Sys2Proof
end

