-- ==== Sys2Proof/Decode.lean ====
section
/-! DEFINITION. The command encoding of spec/30_encoding.md R49 to R51 and R62: the opcode table, the decoder from
command words and from bytes, the encoder, and the mnemonics of host programs. -/

namespace Sys2Proof

/-- One row of the opcode map of R50: its mnemonic, GROUP (bits 7 to 4) and FUNC (bits 3 to 0). -/
structure OpcodeRow where
  mnemonic : String
  group : BitVec 4
  func : BitVec 4
  instr : Instr
deriving DecidableEq, Repr

/-- The command word of a row: GROUP above FUNC (R49). -/
def rowOpcode (r : OpcodeRow) : Byte := r.group ++ r.func

/-- The ten commands (R50). -/
def opcodeTable : List OpcodeRow :=
  [ ⟨"W16LE", 0x0, 0x1, .w16le⟩,
    ⟨"LEW16", 0x0, 0x2, .lew16⟩,
    ⟨"W16BE", 0x0, 0x3, .w16be⟩,
    ⟨"BEW16", 0x0, 0x4, .bew16⟩,
    ⟨"H2B", 0x1, 0x1, .h2b⟩,
    ⟨"B2H", 0x1, 0x2, .b2h⟩,
    ⟨"CRC", 0x2, 0x1, .crc⟩,
    ⟨"ACRC", 0x2, 0x2, .acrc⟩,
    ⟨"VCRC", 0x2, 0x3, .vcrc⟩,
    ⟨"MBAP", 0x3, 0x1, .mbap⟩ ]

/-- The command a word stands for: selection is by the whole 8-bit value, and every word of no row is reserved
(R50, R51). -/
def decode (w : Byte) : Instr :=
  match opcodeTable.find? (fun r => rowOpcode r == w) with
  | some r => r.instr
  | none => .reserved w

/-- Why bytes hold no command: a command is one whole 8-bit word (R49). -/
inductive DecodeError where
  /-- There is no byte to decode. -/
  | noWord
deriving DecidableEq, Repr

/-- Decoding from bytes: the command of the first byte, and the bytes after it. -/
def decodeBytes : List Byte → Except DecodeError (Instr × List Byte)
  | [] => .error .noWord
  | w :: rest => .ok (decode w, rest)

/-- The decoder on a word numbered as the opcode table numbers it. The instruction is the one byte; a number that
is no 8-bit value is no command word (R35). -/
def decodeTableWord (_nbits w : Nat) : Option Instr :=
  if w < 256 then
    match decodeBytes [BitVec.ofNat 8 w] with
    | .ok (i, _) => some i
    | .error _ => none
  else none

/-- The command word of a command, from R50's opcode column. -/
def encode : Instr → Byte
  | .w16le => 0x01#8
  | .lew16 => 0x02#8
  | .w16be => 0x03#8
  | .bew16 => 0x04#8
  | .h2b => 0x11#8
  | .b2h => 0x12#8
  | .crc => 0x21#8
  | .acrc => 0x22#8
  | .vcrc => 0x23#8
  | .mbap => 0x31#8
  | .reserved w => w

/-- The bytes of a command. -/
def encodeBytes (i : Instr) : List Byte := [encode i]

/-- The command word a host program's mnemonic stands for, case-sensitive; none for any other name (R62). -/
def mnemonicWord (m : String) : Option Byte :=
  match opcodeTable.find? (fun r => r.mnemonic == m) with
  | some r => some (rowOpcode r)
  | none => none

end Sys2Proof
end

