-- ==== Sys2Proof/Machine/Input.lean ====
section
/-! DEFINITION. What reaches the block from outside: the host's accesses (spec/20_memory.md R34), the platform's
reset (spec/70_reset_and_hazards.md R112), and the lines of a host program (spec/30_encoding.md R60, R61). -/

namespace Sys2Proof.Machine

/-- One host access, as the bus tuple of 30_encoding R60. Numbers are unbounded here, so that an access outside the
address spaces or with a value too wide can be written down, and refused (60_exceptions R103). -/
inductive HostAccess where
  /-- (W, n, v): write register n. -/
  | regWrite (n v : Nat)
  /-- (R, n): read register n. -/
  | regRead (n : Nat)
  /-- (WI, i, b): write IBUF byte i. -/
  | ibufWrite (i b : Nat)
  /-- (RI, i): read IBUF byte i. -/
  | ibufRead (i : Nat)
  /-- (RO, i): read OBUF byte i. -/
  | obufRead (i : Nat)
deriving DecidableEq, Repr

/-- An operand the host owns: an IBUF byte, ILEN, IPRES or WIN (70_reset R116). -/
inductive Operand where
  | ibuf (i : Nat)
  | ilen
  | ipres
  | win
deriving DecidableEq, Repr

/-- One pending input of the block. Each makes at most one host access per step; the two loops of R61 (`poll`,
`mvout`) stay pending until they end. -/
inductive Input where
  /-- One host access. -/
  | access (a : HostAccess)
  /-- Read STATUS until bit 7 of the value read is 0 (30_encoding R61). -/
  | poll
  /-- The start of `mvout`: read OLEN (30_encoding R61). -/
  | mvout
  /-- `mvout` at index i of the k it read: read OBUF byte i, or, past the last, write ILEN and IPRES. -/
  | mvoutRead (i k : Nat)
  /-- `mvout` with OBUF byte i read as b: write it to IBUF. -/
  | mvoutWrite (i k b : Nat)
  /-- The platform's reset input (70_reset R112). -/
  | reset
deriving DecidableEq, Repr

/-- The eight register names of 10_state R15. -/
inductive Reg where
  | cmd
  | status
  | ilen
  | ipres
  | win
  | olen
  | wout
  | tid
deriving DecidableEq, Repr

/-- A register operand of a host program: a name or a number (30_encoding R60). -/
inductive RegRef where
  | name (r : Reg)
  | number (n : Nat)
deriving DecidableEq, Repr

/-- One line of a host program (30_encoding R60, R61). -/
inductive HostLine where
  | wr (r : RegRef) (v : Nat)
  | rd (r : RegRef)
  | wb (i b : Nat)
  | rb (i : Nat)
  | ob (i : Nat)
  /-- `cmd <M>`. -/
  | cmd (mnemonic : String)
  /-- `cmd 0x<hh>`, how a reserved command word is written (30_encoding R62). -/
  | cmdWord (w : Nat)
  | poll
  | run (mnemonic : String)
  | ldbytes (bs : List Nat)
  | ldtext (text : String)
  | ldword (v : Nat)
  | mvout
deriving DecidableEq, Repr

end Sys2Proof.Machine
end

