-- ==== Sys2Proof/Machine/State.lean ====
section
/-! DEFINITION. The state of the block as plain data (spec/10_state.md R13 to R32), the named model faults and
refusals (spec/60_exceptions.md R101 to R103), and the state after reset (spec/70_reset_and_hazards.md R109). -/

namespace Sys2Proof.Machine

/-- A buffer's cells: strictly rising indices. An unlisted index holds no value (10_state R29 to R31; logs 7, 8). -/
abbrev Memory := List Host.Cell

/-- A model fault of 60_exceptions R101. A fault is RECORDED in State.faults beside what the step does, and the run
goes on with free values (R97, R102; log 4); safe. -/
inductive Fault where
  /-- The engine, running the command word `opcode`, read IBUF byte `i`, which the host has not written since reset.
  Recorded by `noteUnwritten`; safe: the byte is a free value. -/
  | unwrittenInput (opcode : Byte) (i : Nat)
  /-- The host read IBUF byte `i`, which it has not written since reset. Recorded by `readIbuf`; safe: the value
  returned is free. -/
  | unwrittenRead (i : Nat)
  /-- The host's access wrote IBUF, ILEN, IPRES or WIN while BUSY = 1 (70_reset R116). Recorded by `noteOperandWrite`;
  safe: what the command sees of that operand is a free value. -/
  | operandWriteWhileBusy (access : HostAccess)
deriving DecidableEq, Repr

/-- A refusal of 60_exceptions R103. It is marked in State.refusal, and every later step answers it (log 5). -/
inductive Refusal where
  /-- An instruction without a meaning. No arm of exec answers it; safe. -/
  | notModelled (mnemonic : String)
  /-- A host access to a register number 8 to 15, or above (20_memory R37). Raised by `accessRefusal`; safe. -/
  | reservedRegister (n : Nat)
  /-- An IBUF access at an index of MAXLEN or more (20_memory R37). Raised by `accessRefusal`; safe. -/
  | ibufIndex (i : Nat)
  /-- An OBUF read at an index of OMAXLEN or more (20_memory R37). Raised by `accessRefusal`; safe. -/
  | obufIndex (i : Nat)
  /-- A written value that does not fit its register or byte (20_memory R35). Raised by `accessRefusal`; safe. -/
  | valueTooWide (access : HostAccess)
  /-- A host program that names no command (30_encoding R62). Raised by `transcribe`; safe. -/
  | unknownMnemonic (mnemonic : String)
deriving DecidableEq, Repr

/-- The state of the block, of the host's pending work, and of the model's record. -/
structure State where
  /-- CMD, register 0 (10_state R16); while BUSY = 1 the outstanding command (R31). -/
  cmd : Byte
  /-- STATUS.CODE (R18). -/
  code : BitVec 4
  /-- STATUS.FLAG (R19). -/
  flag : Bool
  /-- STATUS.OPRES (R20). -/
  opres : Bool
  /-- STATUS.BUSYERR (R21). -/
  busyerr : Bool
  /-- STATUS.BUSY (R22). -/
  busy : Bool
  /-- ILEN, register 2 (R23). -/
  ilen : Word
  /-- IPRES, register 3 (R24). -/
  ipres : Bool
  /-- WIN, register 4 (R25). -/
  win : Word
  /-- OLEN, register 5 (R26). -/
  olen : Word
  /-- WOUT, register 6 (R27). -/
  wout : Word
  /-- TID, register 7 (R28). -/
  tid : Word
  /-- IBUF (R29); an index is listed exactly when `written` of it is 1 (R31). -/
  ibuf : Memory
  /-- OBUF (R30); an index is listed once a command has defined it. -/
  obuf : Memory
  /-- The fault record, oldest first (R31, 60_exceptions R101, R102). -/
  faults : List Fault
  /-- The refusal mark (R31, 60_exceptions R103). -/
  refusal : Option Refusal
  /-- The model's own: pending inputs, next first (log 1). -/
  inputs : List Input
  /-- The model's own: what host reads returned, newest first (log 18). Its length is the number of the next read. -/
  reads : List (HostAccess × Nat)
  /-- The model's own: how many inputs still come before the outstanding command's step (log 2). -/
  delay : Nat
  /-- The model's own: the counter that free values which are not drawn at a host read are drawn by (logs 2, 8, 9). Host
  writes, engine steps and resets move it on; reads do not. -/
  draws : Nat
  /-- The model's own: operands written while the present command was outstanding (log 9). -/
  disturbed : List Operand
deriving DecidableEq, Repr

/-- The machine right after power-on, which is a reset (70_reset R109, R112); the model's own fields are empty or 0
(log 11). -/
def State.reset : State where
  cmd := 0x00#8
  code := 0x0#4
  flag := false
  opres := false
  busyerr := false
  busy := false
  ilen := 0x0000#16
  ipres := false
  win := 0x0000#16
  olen := 0x0000#16
  wout := 0x0000#16
  tid := 0x0000#16
  ibuf := []
  obuf := []
  faults := []
  refusal := none
  inputs := []
  reads := []
  delay := 0
  draws := 0
  disturbed := []

end Sys2Proof.Machine
end

