-- ==== Sys2Proof/Machine/Flags.lean ====
section
/-! DEFINITION. STATUS: its layout (spec/10_state.md R17), the completion codes (spec/60_exceptions.md R92), and the
writes of its result fields FLAG and OPRES (R19, R20). -/

namespace Sys2Proof.Machine

/-- The completion codes of 60_exceptions R92 that have a name. -/
inductive Code where
  | ok
  | formatError
  | frameTooLarge
  /-- 0x3 to 0x7 are assigned for the surrounding software; the block never produces them. -/
  | crcError
  | timeout
  | connection
  | protocol
  | busy
  | illegal
deriving DecidableEq, Repr

/-- The value of a completion code in STATUS[3:0] (R92). -/
def codeBits : Code → BitVec 4
  | .ok => 0x0#4
  | .formatError => 0x1#4
  | .frameTooLarge => 0x2#4
  | .crcError => 0x3#4
  | .timeout => 0x4#4
  | .connection => 0x5#4
  | .protocol => 0x6#4
  | .busy => 0x7#4
  | .illegal => 0xF#4

/-- STATUS from its fields: BUSY [7], BUSYERR [6], OPRES [5], FLAG [4], CODE [3:0] (10_state R17). -/
def packStatus (busy busyerr opres flag : Bool) (code : BitVec 4) : Byte :=
  BitVec.ofBool busy ++ BitVec.ofBool busyerr ++ BitVec.ofBool opres ++ BitVec.ofBool flag ++ code

/-- STATUS as the block holds it (10_state R17). -/
def statusByte (s : State) : Byte := packStatus s.busy s.busyerr s.opres s.flag s.code

/-- The number of the host's next read: how many came before it. Every read has a number of its own, so a value that
is drawn freshly at each read is drawn by it (log 6). -/
def readNumber (s : State) : Nat := s.reads.length

/-- STATUS as a host read sees it while BUSY = 1: BUSY and BUSYERR exact, CODE, FLAG and OPRES drawn freshly
(70_reset R117). -/
def busyStatusByte (s : State) : Byte :=
  let w := Config.busyWord (readNumber s)
  packStatus s.busy s.busyerr (w.getLsbD 5) (w.getLsbD 4) (w.setWidth 4)

/-- `R(STATUS).FLAG <- b` (10_state R19). -/
def putFlag (b : Bool) (s : State) : State := { s with flag := b }

end Sys2Proof.Machine
end

