-- ==== Sys2Proof/Machine/Ops.lean ====
section
/-! DEFINITION. The named operations over buffers and registers that the commands and the host port share:
buffer reads and writes (spec/20_memory.md R41, R42), results (spec/30_encoding.md R53), completion (R57), issue (R55),
and reset (spec/70_reset_and_hazards.md R109). The block has no exceptions (spec/60_exceptions.md R105): what takes
their place is a completion with an error code. -/

namespace Sys2Proof.Machine

/-- The byte at an index, none where the index holds no value. -/
def Memory.read : Memory → Nat → Option Byte
  | [], _ => none
  | (a, b) :: m, i => if a = i then some b else Memory.read m i

/-- Write one byte, keeping the indices strictly rising. -/
def Memory.write : Memory → Nat → Byte → Memory
  | [], i, b => [(i, b)]
  | (a, c) :: m, i, b =>
    if i < a then (i, b) :: (a, c) :: m
    else if i = a then (i, b) :: m
    else (a, c) :: Memory.write m i b

/-- `MemWrite(buf, i, n, bs)`: write the bytes of `bs` from index `i` on (00_scope section 4). -/
def Memory.writeSeq : Memory → Nat → List Byte → Memory
  | m, _, [] => m
  | m, i, b :: bs => Memory.writeSeq (Memory.write m i b) (i + 1) bs

/-- The canonical form: strictly rising indices. An unlisted index holds no value, so no entry equals it. -/
def Memory.wf : Memory → Bool
  | [] => true
  | [_] => true
  | (a, _) :: (b, c) :: m => decide (a < b) && Memory.wf ((b, c) :: m)

/-- Every listed index is below a buffer's size. -/
def Memory.below (size : Nat) (m : Memory) : Bool := m.all (fun c => decide (c.1 < size))

/-- `n ≤ MAXLEN`. R6's lower bound 768 implies the first test, which lets a short length be settled by computation. -/
def withinMaxLen (n : Nat) : Bool := decide (n ≤ 768) || decide (n ≤ Config.maxLen)

/-- `i < MAXLEN`: an index of IBUF (10_state R29). -/
def insideIbuf (i : Nat) : Bool := decide (i < 768) || decide (i < Config.maxLen)

/-- `i < OMAXLEN`: an index of OBUF (10_state R30). -/
def insideObuf (i : Nat) : Bool := decide (i < 2304) || decide (i < Config.oMaxLen)

/-- Move on to the next draw of the free values. -/
def tick (s : State) : State := { s with draws := s.draws + 1 }

/-- Add to the fault record; nothing is ever taken from it (60_exceptions R101, R102). -/
def recordFaults (fs : List Fault) (s : State) : State := { s with faults := s.faults ++ fs }

/-- Mark the run as refused (60_exceptions R103). -/
def refuse (r : Refusal) (s : State) : State := { s with refusal := some r }

/-- The 16-bit OLEN of an output of `n` bytes: `n`, or a free value where `n` does not fit (log 10). -/
def lenWord (n : Nat) : Word := if n < 65536 then BitVec.ofNat 16 n else Config.oversizeLen n

/-- A byte output: `MemWrite(OBUF, 0, n, bs); R(OLEN) <- n; R(STATUS).OPRES <- 1` (20_memory R42, 30_encoding R53). -/
def putBytes (bs : List Byte) (s : State) : State :=
  { s with obuf := s.obuf.writeSeq 0 bs, olen := lenWord bs.length, opres := true }

/-- An absent output: `R(OLEN) <- 0; R(STATUS).OPRES <- 0` (30_encoding R53). -/
def dropOutput (s : State) : State := { s with olen := 0x0000#16, opres := false }

/-- Leave every OBUF byte undefined (30_encoding R53: "OBUF any value"). -/
def forgetObuf (s : State) : State := { s with obuf := [] }

/-- A word result: `R(WOUT) <- w` (30_encoding R53). -/
def putWord (w : Word) (s : State) : State := { s with wout := w }

/-- `R(TID) <- (TID + 1) mod 65536` (43_mbap R88). -/
def advanceTid (s : State) : State := { s with tid := s.tid + 1#16 }

/-- `complete(code)`: `R(STATUS).CODE <- code; R(STATUS).BUSY <- 0` (30_encoding R57). The engine step ends here, so
the free values move on. -/
def complete (c : Code) (s : State) : State :=
  { s with code := codeBits c, busy := false, draws := s.draws + 1 }

/-- An accepted CMD write: the command is now outstanding (30_encoding R55). Its delay is drawn (log 2). -/
def acceptCommand (op : Byte) (s : State) : State :=
  { s with cmd := op, busyerr := false, busy := true, delay := Config.engineDelay s.draws, disturbed := [],
           draws := s.draws + 1 }

/-- A CMD write while BUSY = 1: only BUSYERR changes (60_exceptions R99). -/
def rejectCommand (s : State) : State := { s with busyerr := true }

/-- Reset (70_reset R109, R111): every register to its reset value, no IBUF byte written, OBUF undefined, no command
outstanding. The fault record and the refusal mark stay (60_exceptions R102, R103), and the host keeps its own
pending inputs and what it has read. -/
def resetBlock (s : State) : State :=
  { State.reset with
    faults := s.faults, refusal := s.refusal, inputs := s.inputs, reads := s.reads, draws := s.draws + 1 }

/-- The command the engine's next step runs: CMD, decoded (30_encoding R56). -/
def fetch (s : State) : Instr := decode s.cmd

/-- The engine's step comes next: a command is outstanding, and its delay is over or nothing else is pending
(30_encoding R56, 20_memory R43, 70_reset R121; log 2). -/
def engineTurn (s : State) : Bool := s.busy && (s.delay == 0 || s.inputs.isEmpty)

/-- Put a command word where the engine takes its next command, as the outstanding command whose turn it is
(log 13). -/
def placeCommand (w : Nat) (s : State) : State :=
  { s with cmd := BitVec.ofNat 8 w, busy := true, delay := 0, refusal := none }

end Sys2Proof.Machine
end

