-- ==== Sys2Proof/Machine/Operands.lean ====
section
/-! DEFINITION. Operand assembly (spec/30_encoding.md R52): what a command sees of ILEN, IPRES, WIN and IBUF. The
engine sees the register or byte as it stands; where the host wrote it while the command was outstanding it sees a
free value (spec/70_reset_and_hazards.md R116), and an IBUF byte the host never wrote is a free value and a recorded
fault (spec/20_memory.md R41). -/

namespace Sys2Proof.Machine

/-- ILEN as the command sees it, as a number (10_state R23). -/
def operandLen (s : State) : Nat :=
  if s.disturbed.contains .ilen then (Config.disturbedLen s.draws).toNat else s.ilen.toNat

/-- IPRES as the command sees it (10_state R24). -/
def operandPresent (s : State) : Bool :=
  if s.disturbed.contains .ipres then Config.disturbedPresent s.draws else s.ipres

/-- WIN as the command sees it (10_state R25). -/
def operandWord (s : State) : Word :=
  if s.disturbed.contains .win then Config.disturbedWord s.draws else s.win

/-- `IBUF[i]` as the command sees it. -/
def operandByte (s : State) (i : Nat) : Byte :=
  if s.disturbed.contains (.ibuf i) then Config.disturbedByte s.draws i
  else (s.ibuf.read i).getD (Config.unwrittenByte s.draws i)

/-- `MemRead(IBUF, 0, n)`: the operand sequence (30_encoding R52). -/
def operandBytes (n : Nat) (s : State) : List Byte := (List.range n).map (operandByte s)

/-- The faults of `MemRead(IBUF, 0, n)`: one per byte read with `written[i] = 0` (20_memory R41, 60_exceptions R101). -/
def unwrittenFaults (n : Nat) (s : State) : List Fault :=
  ((List.range n).filter (fun i => (s.ibuf.read i).isNone)).map (Fault.unwrittenInput s.cmd)

/-- Record the faults of `MemRead(IBUF, 0, n)`. -/
def noteUnwritten (n : Nat) (s : State) : State := recordFaults (unwrittenFaults n s) s

/-- `RequireInput()`: ILEN > MAXLEN completes as ILLEGAL, otherwise the command goes on with ILEN (30_encoding R56). -/
def requireInput (s : State) (go : Nat → State) : State :=
  if withinMaxLen (operandLen s) then go (operandLen s) else complete .illegal s

end Sys2Proof.Machine
end

