-- ==== Sys2Proof/Machine/Endian.lean ====
section
/-! DEFINITION. The endian converter commands W16LE, LEW16, W16BE and BEW16 (spec/40_endian.md R63 to R66). -/

namespace Sys2Proof.Machine

/-- `v[7:0]`. -/
def lowByte (v : Word) : Byte := v.extractLsb' 0 8

/-- `v[15:8]`. -/
def highByte (v : Word) : Byte := v.extractLsb' 8 8

/-- `word16ToBytes`: low byte, then high byte (40_endian R63). -/
def bytesLE (v : Word) : List Byte := [lowByte v, highByte v]

/-- High byte, then low byte (40_endian R65). -/
def bytesBE (v : Word) : List Byte := [highByte v, lowByte v]

/-- `bytesToWord16`: `b0 + 256 · b1` (40_endian R64). -/
def wordLE (b0 b1 : Byte) : Word := b0.setWidth 16 + 256#16 * b1.setWidth 16

/-- `256 · b0 + b1` (40_endian R66). -/
def wordBE (b0 b1 : Byte) : Word := 256#16 * b0.setWidth 16 + b1.setWidth 16

/-- The shared body of LEW16 and BEW16: the input must be two bytes, and `f` of them goes to WOUT
(40_endian R64, R66). -/
def wordFromTwo (f : Byte → Byte → Word) (s : State) : State :=
  requireInput s fun n =>
    if n = 2 then complete .ok (putWord (f (operandByte s 0) (operandByte s 1)) (noteUnwritten 2 s))
    else complete .illegal s

/-- W16LE (40_endian R63). -/
def execW16le (s : State) : Host.Outcome State Fault Refusal :=
  .next (complete .ok (putBytes (bytesLE (operandWord s)) s))

/-- LEW16 (40_endian R64). -/
def execLew16 (s : State) : Host.Outcome State Fault Refusal := .next (wordFromTwo wordLE s)

/-- W16BE (40_endian R65). -/
def execW16be (s : State) : Host.Outcome State Fault Refusal :=
  .next (complete .ok (putBytes (bytesBE (operandWord s)) s))

/-- BEW16 (40_endian R66). -/
def execBew16 (s : State) : Host.Outcome State Fault Refusal := .next (wordFromTwo wordBE s)

end Sys2Proof.Machine
end

