-- ==== Sys2Proof/Machine/Crc.lean ====
section
/-! DEFINITION. The CRC-16 (Modbus) commands CRC, ACRC and VCRC (spec/42_crc16.md R77 to R81). -/

namespace Sys2Proof.Machine

/-- One bit: shift right, with the conditional exclusive or when the bit shifted out is 1 (42_crc16 R77 (2); log 14). -/
def crcBit (r : Word) : Word := if r.getLsbD 0 then (r >>> 1) ^^^ Config.crcPoly else r >>> 1

/-- `k` bits. -/
def crcBits : Nat → Word → Word
  | 0, r => r
  | k + 1, r => crcBits k (crcBit r)

/-- One byte: into the low 8 bits of the register, then 8 bits (42_crc16 R77 (1); log 14). -/
def crcByte (r : Word) (b : Byte) : Word := crcBits Config.crcBitsPerByte (r ^^^ b.setWidth 16)

/-- `crc16(s)`: no final exclusive or, no final reflection (42_crc16 R77 (3); log 14). -/
def crc16 (bs : List Byte) : Word := bs.foldl crcByte Config.crcInit

/-- `rtu(p)`: the PDU and its CRC, low byte first (42_crc16 R79). -/
def rtuFrame (p : List Byte) : List Byte := p ++ bytesLE (crc16 p)

/-- `verifyCrc`: false below two bytes; otherwise the last two bytes, low first, are the CRC of the rest
(42_crc16 R81). -/
def verifyFrame (f : List Byte) : Bool :=
  if f.length < 2 then false
  else crc16 (f.take (f.length - 2)) == wordLE (f.getD (f.length - 2) 0#8) (f.getD (f.length - 1) 0#8)

/-- CRC (42_crc16 R78). -/
def execCrc (s : State) : Host.Outcome State Fault Refusal :=
  .next <| requireInput s fun n => complete .ok (putWord (crc16 (operandBytes n s)) (noteUnwritten n s))

/-- ACRC (42_crc16 R80). -/
def execAcrc (s : State) : Host.Outcome State Fault Refusal :=
  .next <| requireInput s fun n => complete .ok (putBytes (rtuFrame (operandBytes n s)) (noteUnwritten n s))

/-- VCRC (42_crc16 R81): below two bytes no IBUF byte is read (R82). -/
def execVcrc (s : State) : Host.Outcome State Fault Refusal :=
  .next <| requireInput s fun n =>
    if n < 2 then complete .ok (putFlag false s)
    else complete .ok (putFlag (verifyFrame (operandBytes n s)) (noteUnwritten n s))

end Sys2Proof.Machine
end

