-- ==== Sys2Proof/Machine/HexCodec.lean ====
section
/-! DEFINITION. The hex codec commands H2B and B2H (spec/41_hex_codec.md R69 to R75). -/

namespace Sys2Proof.Machine

/-- The whitespace set `WS` (41_hex_codec R70). -/
def isWhitespace (c : Byte) : Bool :=
  c == 0x09#8 || c == 0x0A#8 || c == 0x0B#8 || c == 0x0C#8 || c == 0x0D#8 || c == 0x20#8

/-- `hexval(c)`; none for a character that is no hex digit (41_hex_codec R71). -/
def hexval (c : Byte) : Option Byte :=
  if 0x30#8 ≤ c ∧ c ≤ 0x39#8 then some (c - 0x30#8)
  else if 0x61#8 ≤ c ∧ c ≤ 0x66#8 then some (c - 0x61#8 + 10#8)
  else if 0x41#8 ≤ c ∧ c ≤ 0x46#8 then some (c - 0x41#8 + 10#8)
  else none

/-- One of the 22 hex digits (41_hex_codec R71). -/
def isHexDigit (c : Byte) : Bool := (hexval c).isSome

/-- The text without its whitespace, in order (41_hex_codec R70, R72). -/
def stripText (text : List Byte) : List Byte := text.filter (fun c => !isWhitespace c)

/-- FORMAT_ERROR's condition on the stripped text: odd length, or a byte that is no hex digit (41_hex_codec R72). -/
def badHexText (t : List Byte) : Bool := t.length % 2 == 1 || t.any (fun c => !isHexDigit c)

/-- `[16 · hexval(t[2k]) + hexval(t[2k+1])]` for a text that is not bad (41_hex_codec R72). -/
def pairBytes : List Byte → List Byte
  | hi :: lo :: t => (16#8 * (hexval hi).getD 0#8 + (hexval lo).getD 0#8) :: pairBytes t
  | _ => []

/-- `dig(d)`, lower case (41_hex_codec R74). -/
def hexDigit (d : BitVec 4) : Byte :=
  if d ≤ 9#4 then 0x30#8 + d.setWidth 8 else 0x61#8 + (d.setWidth 8 - 10#8)

/-- One byte as text: high digit, low digit, space (41_hex_codec R74). -/
def renderByte (b : Byte) : List Byte :=
  [hexDigit (b.extractLsb' 4 4), hexDigit (b.extractLsb' 0 4), 0x20#8]

/-- A byte sequence as hex text (41_hex_codec R74). -/
def hexText (bs : List Byte) : List Byte := bs.flatMap renderByte

/-- H2B (41_hex_codec R72). -/
def execH2b (s : State) : Host.Outcome State Fault Refusal :=
  .next <| requireInput s fun n =>
    let t := stripText (operandBytes n s)
    if badHexText t then complete .formatError (forgetObuf (dropOutput (noteUnwritten n s)))
    else complete .ok (putBytes (pairBytes t) (noteUnwritten n s))

/-- B2H (41_hex_codec R74, R75). -/
def execB2h (s : State) : Host.Outcome State Fault Refusal :=
  .next <|
    if operandPresent s then
      requireInput s fun n => complete .ok (putBytes (hexText (operandBytes n s)) (noteUnwritten n s))
    else complete .ok (dropOutput s)

end Sys2Proof.Machine
end

