-- ==== Sys2Proof/Machine/Mbap.lean ====
section
/-! DEFINITION. The MBAP header constructor (spec/43_mbap.md R85 to R90). -/

namespace Sys2Proof.Machine

/-- The frame of R85: TID, protocol id and LEN = n + 1, each high byte first, then the PDU (R85 to R87). -/
def mbapFrame (t : Word) (p : List Byte) : List Byte :=
  bytesBE t ++ bytesBE Config.mbapProtocolId ++ bytesBE (BitVec.ofNat 16 (p.length + 1)) ++ p

/-- MBAP (43_mbap R89): a PDU above 252 bytes is rejected before any IBUF byte is read (R90). -/
def execMbap (s : State) : Host.Outcome State Fault Refusal :=
  .next <| requireInput s fun n =>
    if Config.mbapMaxPdu < n then complete .frameTooLarge (dropOutput s)
    else complete .ok (advanceTid (putBytes (mbapFrame s.tid (operandBytes n s)) (noteUnwritten n s)))

end Sys2Proof.Machine
end

