-- ==== Sys2Proof/Machine/Reserved.lean ====
section
/-! DEFINITION. The reserved command words (spec/30_encoding.md R51, spec/60_exceptions.md R96). -/

namespace Sys2Proof.Machine

/-- A reserved command word completes as ILLEGAL and changes nothing else, whichever word it is (30_encoding R51). -/
def execReserved (_word : Byte) (s : State) : Host.Outcome State Fault Refusal := .next (complete .illegal s)

end Sys2Proof.Machine
end

