-- ==== Sys2Proof/Machine/Dispatch.lean ====
section
/-! DEFINITION. `Execute()`'s case split (spec/30_encoding.md R56): one arm per command, each a call of its meaning. -/

namespace Sys2Proof.Machine

def exec (i : Instr) (s : State) : Host.Outcome State Fault Refusal :=
  match i with
  | .w16le => Sys2Proof.Machine.execW16le s
  | .lew16 => Sys2Proof.Machine.execLew16 s
  | .w16be => Sys2Proof.Machine.execW16be s
  | .bew16 => Sys2Proof.Machine.execBew16 s
  | .h2b => Sys2Proof.Machine.execH2b s
  | .b2h => Sys2Proof.Machine.execB2h s
  | .crc => Sys2Proof.Machine.execCrc s
  | .acrc => Sys2Proof.Machine.execAcrc s
  | .vcrc => Sys2Proof.Machine.execVcrc s
  | .mbap => Sys2Proof.Machine.execMbap s
  | .reserved word => Sys2Proof.Machine.execReserved word s

end Sys2Proof.Machine
end

