-- ==== Sys2Proof/Machine/HostPort.lean ====
section
/-! DEFINITION. The host port: the five primitives (spec/20_memory.md R34 to R38), what they refuse
(spec/60_exceptions.md R103), what reads return (spec/70_reset_and_hazards.md R117, R118), and the step that takes the
next pending input. -/

namespace Sys2Proof.Machine

/-- The width of register n, for n in 0 to 7 (10_state R15, 20_memory R35). -/
def regWidth : Nat → Nat
  | 0 => 8
  | 1 => 8
  | 3 => 1
  | _ => 16

/-- Why the model refuses an access, if it does (20_memory R35, R37, 60_exceptions R103). -/
def accessRefusal (a : HostAccess) : Option Refusal :=
  match a with
  | .regWrite n v =>
    if 8 ≤ n then some (.reservedRegister n) else if 2 ^ regWidth n ≤ v then some (.valueTooWide a) else none
  | .regRead n => if 8 ≤ n then some (.reservedRegister n) else none
  | .ibufWrite i b =>
    if insideIbuf i then if 256 ≤ b then some (.valueTooWide a) else none else some (.ibufIndex i)
  | .ibufRead i => if insideIbuf i then none else some (.ibufIndex i)
  | .obufRead i => if insideObuf i then none else some (.obufIndex i)

/-- The host writes an operand: while BUSY = 1 the fault is recorded and the outstanding command will see a free value
in its place; the free values move on (70_reset R116, 20_memory R38; log 9). -/
def noteOperandWrite (a : HostAccess) (o : Operand) (s : State) : State :=
  tick (if s.busy then { recordFaults [.operandWriteWhileBusy a] s with disturbed := o :: s.disturbed } else s)

/-- `RegWrite(n, v)` for an access that is not refused. A write to a read-only register is ignored (10_state R15). -/
def writeRegister (n v : Nat) (s : State) : State :=
  match n with
  | 0 => if s.busy then rejectCommand s else acceptCommand (BitVec.ofNat 8 v) s
  | 2 => { noteOperandWrite (.regWrite n v) .ilen s with ilen := BitVec.ofNat 16 v }
  | 3 => { noteOperandWrite (.regWrite n v) .ipres s with ipres := v == 1 }
  | 4 => { noteOperandWrite (.regWrite n v) .win s with win := BitVec.ofNat 16 v }
  | _ => s

/-- `IbufWrite(i, b)`: `IBUF[i] <- b; written[i] <- 1` (20_memory R34). -/
def writeIbuf (i b : Nat) (s : State) : State :=
  { noteOperandWrite (.ibufWrite i b) (.ibuf i) s with ibuf := s.ibuf.write i (BitVec.ofNat 8 b) }

/-- The value a read of a result register returns: its own, or a fresh draw while BUSY = 1 (70_reset R117). -/
def readResult (w : Word) (s : State) : Nat :=
  if s.busy then (Config.busyWord (readNumber s)).toNat else w.toNat

/-- The value `RegRead(n)` returns (20_memory R34, 70_reset R117). -/
def readRegister (n : Nat) (s : State) : Nat :=
  match n with
  | 0 => s.cmd.toNat
  | 1 => if s.busy then (busyStatusByte s).toNat else (statusByte s).toNat
  | 2 => s.ilen.toNat
  | 3 => s.ipres.toNat
  | 4 => s.win.toNat
  | 5 => readResult s.olen s
  | 6 => readResult s.wout s
  | _ => readResult s.tid s

/-- `IbufRead(i)`: exact at all times; a byte never written is a fault and a free value that stays until the next host
write or engine step (60_exceptions R101, 20_memory R38; log 8). -/
def readIbuf (i : Nat) (s : State) : Nat × State :=
  match s.ibuf.read i with
  | some b => (b.toNat, s)
  | none => ((Config.unwrittenByte s.draws i).toNat, recordFaults [.unwrittenRead i] s)

/-- The value of OBUF byte `i` while BUSY = 0: defined below OLEN where a command defined it, and any other drawn
freshly at each read (70_reset R118, 93_implementation_defined U7, U8; log 7). -/
def obufByte (s : State) (i : Nat) : Byte :=
  if i < s.olen.toNat then (s.obuf.read i).getD (Config.undefinedByte (readNumber s))
  else Config.undefinedByte (readNumber s)

/-- The value `ObufRead(i)` returns (70_reset R117, R118). -/
def readObuf (i : Nat) (s : State) : Nat :=
  if s.busy then (Config.busyByte (readNumber s)).toNat else (obufByte s i).toNat

/-- Hand a value read to the host, in the log of its reads: what a read does to the block's state, and all it does but
for the fault of `readIbuf` (20_memory R38). -/
def logRead (a : HostAccess) (r : Nat × State) : Option Nat × State :=
  (some r.1, { r.2 with reads := (a, r.1) :: r.2.reads })

/-- One host access: the value a read returned, and the state after it (20_memory R34). -/
def perform (a : HostAccess) (s : State) : Option Nat × State :=
  match accessRefusal a with
  | some r => (none, refuse r s)
  | none =>
    match a with
    | .regWrite n v => (none, writeRegister n v s)
    | .regRead n => logRead a (readRegister n s, s)
    | .ibufWrite i b => (none, writeIbuf i b s)
    | .ibufRead i => logRead a (readIbuf i s)
    | .obufRead i => logRead a (readObuf i s, s)

/-- Put inputs before the pending ones: how a loop of 30_encoding R61 goes on. -/
def pushInputs (ops : List Input) (s : State) : State := { s with inputs := ops ++ s.inputs }

/-- After a host read inside a loop: what the host does next depends on the value it read. -/
def andThen (r : Option Nat × State) (next : Nat → List Input) : State :=
  match r.1 with
  | some v => pushInputs (next v) r.2
  | none => r.2

/-- What one input does, once it is taken from the pending ones (20_memory R34, 30_encoding R61, 70_reset R109). -/
def runInput (op : Input) (s : State) : State :=
  match op with
  | .access a => (perform a s).2
  | .poll => andThen (perform (.regRead 1) s) fun v => if v.testBit 7 then [.poll] else []
  | .mvout => andThen (perform (.regRead 5) s) fun k => [.mvoutRead 0 k]
  | .mvoutRead i k =>
    if i < k then andThen (perform (.obufRead i) s) fun b => [.mvoutWrite i k b]
    else pushInputs [.access (.regWrite 3 1)] (perform (.regWrite 2 k) s).2
  | .mvoutWrite i k b => pushInputs [.mvoutRead (i + 1) k] (perform (.ibufWrite i b) s).2
  | .reset => resetBlock s

/-- Take the next pending input; with none pending nothing happens (70_reset R113; log 12). One input less then comes
before the engine's step. -/
def hostStep (s : State) : State :=
  match s.inputs with
  | [] => s
  | op :: rest => runInput op { s with inputs := rest, delay := s.delay - 1 }

end Sys2Proof.Machine
end

