-- ==== Sys2Proof/Machine/HostProgram.lean ====
section
/-! DEFINITION. Host programs (spec/30_encoding.md R60 to R62): their lines as the host accesses they make, and
loading one as pending inputs. -/

namespace Sys2Proof.Machine

/-- The number of a named register (10_state R15). -/
def regNumber : Reg → Nat
  | .cmd => 0
  | .status => 1
  | .ilen => 2
  | .ipres => 3
  | .win => 4
  | .olen => 5
  | .wout => 6
  | .tid => 7

/-- A register operand, by name or number (30_encoding R60). -/
def refNumber : RegRef → Nat
  | .name r => regNumber r
  | .number n => n

/-- `ldbytes` from index `i` on: one `wb` a byte. -/
def loadBytesFrom : Nat → List Nat → List Input
  | _, [] => []
  | i, b :: bs => .access (.ibufWrite i b) :: loadBytesFrom (i + 1) bs

/-- `ldbytes b0, …, bk-1`: the bytes, then ILEN, then IPRES (30_encoding R61). -/
def loadBytes (bs : List Nat) : List Input :=
  loadBytesFrom 0 bs ++ [.access (.regWrite 2 bs.length), .access (.regWrite 3 1)]

/-- `cmd <M>`: a CMD write of M's opcode; an unknown mnemonic has no encoding (30_encoding R61, R62). -/
def commandLine (m : String) : Except Refusal (List Input) :=
  match mnemonicWord m with
  | some w => .ok [.access (.regWrite 0 w.toNat)]
  | none => .error (.unknownMnemonic m)

/-- The inputs of one line (30_encoding R60, R61). DESIGN CHOICE, log 20: `cmd 0x<hh>` is the CMD write of its value
whether or not the word is reserved, though R62 gives the form for reserved words only. DESIGN CHOICE, log 21: `ldtext`
takes a character outside ASCII, for which 41_hex_codec R69 gives no code, by its Unicode code point, so that one above
0xFF is refused as a value too wide when it is written. -/
def transcribeLine : HostLine → Except Refusal (List Input)
  | .wr r v => .ok [.access (.regWrite (refNumber r) v)]
  | .rd r => .ok [.access (.regRead (refNumber r))]
  | .wb i b => .ok [.access (.ibufWrite i b)]
  | .rb i => .ok [.access (.ibufRead i)]
  | .ob i => .ok [.access (.obufRead i)]
  | .cmd m => commandLine m
  | .cmdWord w => .ok [.access (.regWrite 0 w)]
  | .poll => .ok [.poll]
  | .run m =>
    match commandLine m with
    | .ok ops => .ok (ops ++ [.poll])
    | .error r => .error r
  | .ldbytes bs => .ok (loadBytes bs)
  | .ldtext text => .ok (loadBytes (text.toList.map Char.toNat))
  | .ldword v => .ok [.access (.regWrite 4 v)]
  | .mvout => .ok [.mvout]

/-- The inputs of a host program, or the refusal of its first unknown mnemonic (30_encoding R62, 60_exceptions R103). -/
def transcribe : List HostLine → Except Refusal (List Input)
  | [] => .ok []
  | l :: ls =>
    match transcribeLine l with
    | .error r => .error r
    | .ok ops =>
      match transcribe ls with
      | .error r => .error r
      | .ok rest => .ok (ops ++ rest)

/-- Give the host a program: its accesses become the last pending inputs; a program that cannot be transcribed marks
the run as refused (30_encoding R62; log 13). -/
def loadProgram (ls : List HostLine) (s : State) : State :=
  match transcribe ls with
  | .ok ops => { s with inputs := s.inputs ++ ops }
  | .error r => refuse r s

end Sys2Proof.Machine
end

