-- ==== Sys2Proof/Machine/Step.lean ====
section
/-! DEFINITION. One transition of the block (spec/00_scope.md R9): the engine's step, one host access, or a reset. -/

namespace Sys2Proof.Machine

/-- A refused run has no further meaning (60_exceptions R103). Otherwise the engine runs the outstanding command when
it is its turn (30_encoding R56), and else the next pending input is taken. -/
def step (s : State) : Host.Outcome State Fault Refusal :=
  match s.refusal with
  | some r => .refused r
  | none => if engineTurn s then exec (fetch s) s else .next (hostStep s)

/-- `s` with the command word `w` outstanding and the engine's step next (log 13). Every instruction is one byte, so
the number of bits plays no part. -/
def State.withFetchWord (s : State) (_nbits w : Nat) : State := placeCommand w s

end Sys2Proof.Machine
end

