-- ==== Sys2Proof/Safety.lean ====
section
/-! DEFINITION. What counts as a safe run, in the terms claims use (spec/00_scope.md R12, spec/60_exceptions.md R101 to
R103), and the invariant every step keeps. -/

namespace Sys2Proof.Machine

/-- No fault recorded and no refusal: the premise of every claim about a program (00_scope R12). -/
def State.Clean (s : State) : Prop := s.faults = [] ∧ s.refusal = none

/-- A final state: clean, no command outstanding, nothing pending (60_exceptions R101: a state with a recorded fault is
never final). -/
def State.Final (s : State) : Prop := s.Clean ∧ s.busy = false ∧ s.inputs = []

/-- No operand has been written since the outstanding command was accepted (70_reset R116). -/
def State.OperandsStable (s : State) : Prop := s.disturbed = []

/-- The operand bytes `IBUF[0..n)` are all written (70_reset R114). -/
def State.InputWritten (s : State) (n : Nat) : Prop := ∀ i, i < n → (s.ibuf.read i).isSome

/-- The codes a completed command can show, and the reset value (60_exceptions R93). -/
def isProducedCode (c : BitVec 4) : Bool := c == 0x0#4 || c == 0x1#4 || c == 0x2#4 || c == 0xF#4

/-- The invariant of the block: both buffers canonical and within their sizes (10_state R29, R30), OLEN ≤ OMAXLEN
(10_state R26), every byte below OLEN defined (70_reset R118), CODE one of the produced codes (60_exceptions R93), and
an operand written under an outstanding command has its fault on record (60_exceptions R101). -/
structure State.Inv (s : State) : Prop where
  ibuf_wf : s.ibuf.wf = true
  ibuf_below : s.ibuf.below Config.maxLen = true
  obuf_wf : s.obuf.wf = true
  obuf_below : s.obuf.below Config.oMaxLen = true
  olen_le : s.olen.toNat ≤ Config.oMaxLen
  output_defined : ∀ i, i < s.olen.toNat → (s.obuf.read i).isSome
  code_produced : isProducedCode s.code = true
  disturbed_recorded : s.disturbed ≠ [] → s.faults ≠ []

/-- The host access an input makes next (30_encoding R61); a reset makes none. -/
def nextAccess : Input → Option HostAccess
  | .access a => some a
  | .poll => some (.regRead 1)
  | .mvout => some (.regRead 5)
  | .mvoutRead i k => if i < k then some (.obufRead i) else some (.regWrite 2 k)
  | .mvoutWrite i _ b => some (.ibufWrite i b)
  | .reset => none

end Sys2Proof.Machine
end

