-- ==== Sys2Proof/Certificates/Slice0/Obligations.lean ====
section
/-! DEFINITION. The statements for the provers, from the numbered rules of spec/, and the few words they are put in.
Where a statement fixes a next state it writes `t = { s with … }`: every field not named there is unchanged, and a field
given as `t.draws` or `t.obuf` is left open there (draws is the model's own counter of free values; OBUF is then given
byte by byte). A command sees a free value of an operand the host wrote under it (70_reset R116), so the operand is
tied to its register under `OperandsStable` only; everything else is said of every state. -/

namespace Sys2Proof.Claims

open Sys2Proof Sys2Proof.Machine

/-- `n` is the ILEN a command works with: 16 bits, and the register unless the host wrote it under the command. -/
def SeesLen (s : State) (n : Nat) : Prop := n < 65536 ∧ (s.OperandsStable → n = s.ilen.toNat)

/-- A command reads `IBUF[0..n)` as `bs` and records the faults `fs`: one for each byte the host has not written
(20_memory R41, 60_exceptions R101), and no other. -/
structure EngineReads (s : State) (n : Nat) (bs : List Byte) (fs : List Fault) : Prop where
  length_eq : bs.length = n
  bytes_eq : s.OperandsStable → ∀ i b, i < n → s.ibuf.read i = some b → bs[i]? = some b
  faults_eq : ∀ f, f ∈ fs ↔ ∃ i, i < n ∧ s.ibuf.read i = none ∧ f = .unwrittenInput s.cmd i

/-- A command stores exactly `bs` at `OBUF[0..len(bs))`: every other OBUF byte reads as before (20_memory R42). -/
def Stores (s t : State) (bs : List Byte) : Prop :=
  (∀ i, i < bs.length → t.obuf.read i = bs[i]?) ∧ ∀ i, bs.length ≤ i → t.obuf.read i = s.obuf.read i

/-- An ILLEGAL completion: only CODE and BUSY change (60_exceptions R96). -/
def IllegalOnly (s t : State) : Prop := t = { s with code := 0xF#4, busy := false, draws := t.draws }

/-- The character code of a digit, lower case (41_hex_codec R74). -/
def digitCode (d : Nat) : Nat := if d < 10 then 0x30 + d else 0x61 + (d - 10)

/-- The value of a hex digit: the d whose lower-case or upper-case code it is (41_hex_codec R71). -/
def digitValue (c : Byte) : Option Nat :=
  (List.range 16).find? fun d => c.toNat == digitCode d || (10 ≤ d && c.toNat == 0x41 + (d - 10))

/-- A text without the six whitespace codes (41_hex_codec R70). -/
def strippedText (bs : List Byte) : List Byte :=
  bs.filter fun c => !([0x09, 0x0A, 0x0B, 0x0C, 0x0D, 0x20].contains c.toNat)

/-- A stripped text with an odd length or a byte that is no hex digit (41_hex_codec R72). -/
def malformedText (t : List Byte) : Bool := t.length % 2 == 1 || t.any fun c => (digitValue c).isNone

/-- The ten opcodes (30_encoding R50). -/
def opcodes : List Nat := [0x01, 0x02, 0x03, 0x04, 0x11, 0x12, 0x21, 0x22, 0x23, 0x31]

/-- The ten mnemonics (30_encoding R50). -/
def mnemonics : List String :=
  ["W16LE", "LEW16", "W16BE", "BEW16", "H2B", "B2H", "CRC", "ACRC", "VCRC", "MBAP"]

/-- How many IBUF bytes the outstanding command reads (20_memory R41, 30_encoding R52). -/
def readCount (s : State) : Nat :=
  let n := operandLen s
  match decode s.cmd with
  | .w16le => 0
  | .w16be => 0
  | .reserved _ => 0
  | .lew16 => if n = 2 then 2 else 0
  | .bew16 => if n = 2 then 2 else 0
  | .h2b => if n ≤ Config.maxLen then n else 0
  | .crc => if n ≤ Config.maxLen then n else 0
  | .acrc => if n ≤ Config.maxLen then n else 0
  | .b2h => if operandPresent s && decide (n ≤ Config.maxLen) then n else 0
  | .vcrc => if 2 ≤ n ∧ n ≤ Config.maxLen then n else 0
  | .mbap => if n ≤ 252 then n else 0

/-- The host access the next step makes, if it makes one. -/
def hostAccess (s : State) : Option HostAccess :=
  if engineTurn s then none else s.inputs.head?.bind nextAccess

/-- The next step is a reset. -/
def TakesReset (s : State) : Prop := engineTurn s = false ∧ s.inputs.head? = some .reset

/-- The next step is an accepted CMD write (30_encoding R55). -/
def AcceptsCommand (s : State) : Prop := s.busy = false ∧ ∃ op, op < 256 ∧ hostAccess s = some (.regWrite 0 op)

/-- The next step is a rejected CMD write (60_exceptions R99). -/
def RejectsCommand (s : State) : Prop := s.busy = true ∧ ∃ op, op < 256 ∧ hostAccess s = some (.regWrite 0 op)

/-- The widths of registers 0 to 7 (10_state R15). -/
def regWidths : List Nat := [8, 8, 16, 1, 16, 16, 16, 16]

/-- An access outside the host interface (20_memory R35, R37, 60_exceptions R103). -/
def OutsideInterface : HostAccess → Prop
  | .regWrite n v => 8 ≤ n ∨ ∃ w, regWidths[n]? = some w ∧ 2 ^ w ≤ v
  | .regRead n => 8 ≤ n
  | .ibufWrite i b => Config.maxLen ≤ i ∨ 256 ≤ b
  | .ibufRead i => Config.maxLen ≤ i
  | .obufRead i => 3 * Config.maxLen ≤ i

/-- A write of IBUF, ILEN, IPRES or WIN (70_reset R116). -/
def WritesOperand : HostAccess → Prop
  | .regWrite n _ => n = 2 ∨ n = 3 ∨ n = 4
  | .ibufWrite _ _ => True
  | .regRead _ => False
  | .ibufRead _ => False
  | .obufRead _ => False

/-- The numbers of the eight named registers (10_state R15). -/
def regNumbers : List (Reg × Nat) :=
  [(.cmd, 0), (.status, 1), (.ilen, 2), (.ipres, 3), (.win, 4), (.olen, 5), (.wout, 6), (.tid, 7)]

/-- The accesses of `ldbytes b0, …, bk-1` (30_encoding R61). -/
def loadAccesses (bs : List Nat) : List HostAccess :=
  bs.zipIdx.map (fun p => .ibufWrite p.2 p.1) ++ [.regWrite 2 bs.length, .regWrite 3 1]

/-- The mnemonic a host line names (30_encoding R61, R62). -/
def lineMnemonic : HostLine → Option String
  | .cmd m => some m
  | .run m => some m
  | .wr _ _ => none
  | .rd _ => none
  | .wb _ _ => none
  | .rb _ => none
  | .ob _ => none
  | .cmdWord _ => none
  | .poll => none
  | .ldbytes _ => none
  | .ldtext _ => none
  | .ldword _ => none
  | .mvout => none

/-- The completion code of a command word by the order of 60_exceptions R97. -/
def priorityCode (w : Byte) (s : State) : BitVec 4 :=
  if !(opcodes.contains w.toNat) then 0xF#4
  else if w = 0x12#8 ∧ s.ipres = false then 0x0#4
  else if w ≠ 0x01#8 ∧ w ≠ 0x03#8 ∧ Config.maxLen < s.ilen.toNat then 0xF#4
  else if (w = 0x02#8 ∨ w = 0x04#8) ∧ s.ilen ≠ 2#16 then 0xF#4
  else if w = 0x31#8 ∧ 252 < s.ilen.toNat then 0x2#4
  else if w = 0x23#8 ∧ s.ilen.toNat < 2 then 0x0#4
  else if w = 0x11#8 ∧ malformedText (strippedText (operandBytes s.ilen.toNat s)) = true then 0x1#4
  else 0x0#4

/-- `u` is a state whose command reads exactly the bytes `bs` as its input: they stand in IBUF, written, ILEN is their
number, IPRES is 1, and no operand was written under the command. -/
structure InputIs (u : State) (bs : List Byte) : Prop where
  stable : u.OperandsStable
  len : u.ilen.toNat = bs.length
  present : u.ipres = true
  bytes : ∀ i, i < bs.length → u.ibuf.read i = bs[i]?

/-- `OBUF[0..OLEN)` of `t` is the byte output `bs`, present. -/
structure OutputIs (t : State) (bs : List Byte) : Prop where
  ok : t.code = 0x0#4
  present : t.opres = true
  len : t.olen.toNat = bs.length
  bytes : ∀ i, i < bs.length → t.obuf.read i = bs[i]?

/-- The state in which the next input is performed: it is taken off, and one input less comes before the engine's
step. -/
def taken (s : State) : State := { s with inputs := s.inputs.tail, delay := s.delay - 1 }

/-- A program with a line that names no command (30_encoding R62). -/
def NamesUnknown (ls : List HostLine) : Prop := ∃ l ∈ ls, ∃ m, lineMnemonic l = some m ∧ m ∉ mnemonics

/-- A list of bytes with bit `k` of byte `j` flipped. -/
def flipBit (j k : Nat) (bs : List Byte) : List Byte := bs.modify j fun b => b ^^^ (1#8 <<< k)

end Sys2Proof.Claims

open Sys2Proof Sys2Proof.Machine Sys2Proof.Claims

/-- R50: the ten commands, each selected by its whole 8-bit value and by no other, with the mnemonic of its row; and no
other word is one of them. -/
def Obligations.OpcodeMapDecodes : Prop :=
  (∀ w : Byte, (decode w = .w16le ↔ w = 0x01#8) ∧ (decode w = .lew16 ↔ w = 0x02#8) ∧ (decode w = .w16be ↔ w = 0x03#8) ∧
    (decode w = .bew16 ↔ w = 0x04#8) ∧ (decode w = .h2b ↔ w = 0x11#8) ∧ (decode w = .b2h ↔ w = 0x12#8) ∧
    (decode w = .crc ↔ w = 0x21#8) ∧ (decode w = .acrc ↔ w = 0x22#8) ∧ (decode w = .vcrc ↔ w = 0x23#8) ∧
    (decode w = .mbap ↔ w = 0x31#8) ∧ (w.toNat ∉ opcodes → decode w = .reserved w)) ∧
  mnemonics.map mnemonicWord = opcodes.map fun n => some (BitVec.ofNat 8 n)

/-- R49 to R51: decoding the bytes of a well-formed command gives it back, with the bytes after it untouched; and every
byte is the encoding of exactly one well-formed command. -/
def Obligations.EncodeDecodeRoundTrip : Prop :=
  (∀ (i : Instr) (rest : List Byte), WellFormed i = true → decodeBytes (encodeBytes i ++ rest) = .ok (i, rest)) ∧
  ∀ (w : Byte) (i : Instr), (WellFormed i = true ∧ encode i = w) ↔ decode w = i

/-- R51: the words outside the map are the five ranges; such a word is accepted like any other when the block is idle,
and the engine completes it with ILLEGAL and changes no other state. -/
def Obligations.ReservedWordsCompleteIllegal : Prop :=
  ∀ (w : Byte), (w.toNat ∉ opcodes ↔ w.toNat = 0 ∨ (0x05 ≤ w.toNat ∧ w.toNat ≤ 0x10) ∨
      (0x13 ≤ w.toNat ∧ w.toNat ≤ 0x20) ∨ (0x24 ≤ w.toNat ∧ w.toNat ≤ 0x30) ∨ 0x32 ≤ w.toNat) ∧
    (w.toNat ∉ opcodes → decode w = .reserved w ∧
      (∀ s : State, s.busy = false → perform (.regWrite 0 w.toNat) s = (none, acceptCommand w s)) ∧
      ∀ s : State, s.cmd = w → s.refusal = none → engineTurn s = true →
        ∃ t, step s = .next t ∧ exec (.reserved w) s = .next t ∧ IllegalOnly s t)

/-- R63: W16LE puts WIN's low byte, then its high byte, in OBUF; it always completes with OK, reads no IBUF byte, and
leaves everything else. -/
def Obligations.W16leStoresLowByteFirst : Prop :=
  decode 0x01#8 = .w16le ∧
  ∀ s : State, ∃ (v : Word) (b0 b1 : Byte) (t : State), (s.OperandsStable → v = s.win) ∧ exec .w16le s = .next t ∧
    b0.toNat = v.toNat % 256 ∧ b1.toNat = v.toNat / 256 ∧ Stores s t [b0, b1] ∧
    t = { s with code := 0x0#4, busy := false, opres := true, olen := 2#16, obuf := t.obuf, draws := t.draws }

/-- R65: W16BE puts WIN's high byte, then its low byte, in OBUF; the rest as W16LE. -/
def Obligations.W16beStoresHighByteFirst : Prop :=
  decode 0x03#8 = .w16be ∧
  ∀ s : State, ∃ (v : Word) (b0 b1 : Byte) (t : State), (s.OperandsStable → v = s.win) ∧ exec .w16be s = .next t ∧
    b0.toNat = v.toNat / 256 ∧ b1.toNat = v.toNat % 256 ∧ Stores s t [b0, b1] ∧
    t = { s with code := 0x0#4, busy := false, opres := true, olen := 2#16, obuf := t.obuf, draws := t.draws }

/-- R64: LEW16 puts b0 + 256 · b1 in WOUT when ILEN is 2, and completes as ILLEGAL otherwise; nothing else changes. -/
def Obligations.Lew16ReadsLowByteFirst : Prop :=
  decode 0x02#8 = .lew16 ∧ ∀ s : State, ∃ (n : Nat) (t : State), SeesLen s n ∧ exec .lew16 s = .next t ∧
    (n ≠ 2 → IllegalOnly s t) ∧
    (n = 2 → ∃ (b0 b1 : Byte) (w : Word) (fs : List Fault), EngineReads s 2 [b0, b1] fs ∧
      w.toNat = b0.toNat + 256 * b1.toNat ∧
      t = { s with code := 0x0#4, busy := false, wout := w, faults := s.faults ++ fs, draws := t.draws })

/-- R66: BEW16 puts 256 · b0 + b1 in WOUT when ILEN is 2, and completes as ILLEGAL otherwise; nothing else changes. -/
def Obligations.Bew16ReadsHighByteFirst : Prop :=
  decode 0x04#8 = .bew16 ∧ ∀ s : State, ∃ (n : Nat) (t : State), SeesLen s n ∧ exec .bew16 s = .next t ∧
    (n ≠ 2 → IllegalOnly s t) ∧
    (n = 2 → ∃ (b0 b1 : Byte) (w : Word) (fs : List Fault), EngineReads s 2 [b0, b1] fs ∧
      w.toNat = 256 * b0.toNat + b1.toNat ∧
      t = { s with code := 0x0#4, busy := false, wout := w, faults := s.faults ++ fs, draws := t.draws })

/-- R72: H2B strips whitespace, fails with FORMAT_ERROR on an odd length or a byte that is no hex digit, and otherwise
stores one byte a pair, high digit first; ILLEGAL when ILEN > MAXLEN. After FORMAT_ERROR OBUF is left open. -/
def Obligations.H2bDecodesHexText : Prop :=
  decode 0x11#8 = .h2b ∧ ∀ s : State, ∃ (n : Nat) (t : State), SeesLen s n ∧ exec .h2b s = .next t ∧
    (Config.maxLen < n → IllegalOnly s t) ∧
    (n ≤ Config.maxLen → ∃ (bs : List Byte) (fs : List Fault), EngineReads s n bs fs ∧
      (malformedText (strippedText bs) = true →
        t = { s with code := 0x1#4, busy := false, opres := false, olen := 0#16, obuf := t.obuf,
                     faults := s.faults ++ fs, draws := t.draws }) ∧
      (malformedText (strippedText bs) = false → ∃ out : List Byte,
        out.length = (strippedText bs).length / 2 ∧
        (∀ k, k < out.length → ∃ hi lo, (strippedText bs)[2 * k]?.bind digitValue = some hi ∧
          (strippedText bs)[2 * k + 1]?.bind digitValue = some lo ∧
          out[k]?.map BitVec.toNat = some (16 * hi + lo)) ∧
        Stores s t out ∧
        t = { s with code := 0x0#4, busy := false, opres := true, olen := BitVec.ofNat 16 out.length, obuf := t.obuf,
                     faults := s.faults ++ fs, draws := t.draws }))

/-- R74, R75: B2H renders each byte as two lower-case digits, high first, and a space; an absent input gives an absent
output and reads nothing; ILLEGAL when the input is present and ILEN > MAXLEN. Where 3 · ILEN does not fit in OLEN's 16
bits the spec states no OLEN (log 10): OLEN is given here where it fits. -/
def Obligations.B2hRendersHexText : Prop :=
  decode 0x12#8 = .b2h ∧
  ∀ s : State, ∃ (p : Bool) (n : Nat) (t : State), (s.OperandsStable → p = s.ipres) ∧ SeesLen s n ∧
    exec .b2h s = .next t ∧
    (p = false → t = { s with code := 0x0#4, busy := false, opres := false, olen := 0#16, draws := t.draws }) ∧
    (p = true → Config.maxLen < n → IllegalOnly s t) ∧
    (p = true → n ≤ Config.maxLen → ∃ (bs out : List Byte) (fs : List Fault), EngineReads s n bs fs ∧
      out.length = 3 * n ∧
      (∀ i b, bs[i]? = some b → out[3 * i]?.map BitVec.toNat = some (digitCode (b.toNat / 16)) ∧
        out[3 * i + 1]?.map BitVec.toNat = some (digitCode (b.toNat % 16)) ∧ out[3 * i + 2]? = some 0x20#8) ∧
      Stores s t out ∧ (3 * n < 65536 → t.olen.toNat = 3 * n) ∧
      t = { s with code := 0x0#4, busy := false, opres := true, olen := t.olen, obuf := t.obuf,
                   faults := s.faults ++ fs, draws := t.draws })

/-- R78: CRC puts crc16 of the input in WOUT, ILLEGAL when ILEN > MAXLEN; nothing else changes. -/
def Obligations.CrcGoesToWout : Prop :=
  decode 0x21#8 = .crc ∧ ∀ s : State, ∃ (n : Nat) (t : State), SeesLen s n ∧ exec .crc s = .next t ∧
    (Config.maxLen < n → IllegalOnly s t) ∧
    (n ≤ Config.maxLen → ∃ (bs : List Byte) (fs : List Fault), EngineReads s n bs fs ∧
      t = { s with code := 0x0#4, busy := false, wout := crc16 bs, faults := s.faults ++ fs, draws := t.draws })

/-- R80: ACRC stores the input and its CRC, low byte first; WOUT and FLAG stay; ILLEGAL when ILEN > MAXLEN. Where
ILEN + 2 does not fit in OLEN's 16 bits the spec states no OLEN (log 10): OLEN is given here where it fits. -/
def Obligations.AcrcAppendsCrcLowByteFirst : Prop :=
  decode 0x22#8 = .acrc ∧ ∀ s : State, ∃ (n : Nat) (t : State), SeesLen s n ∧ exec .acrc s = .next t ∧
    (Config.maxLen < n → IllegalOnly s t) ∧
    (n ≤ Config.maxLen → ∃ (bs : List Byte) (lo hi : Byte) (fs : List Fault), EngineReads s n bs fs ∧
      lo.toNat = (crc16 bs).toNat % 256 ∧ hi.toNat = (crc16 bs).toNat / 256 ∧
      Stores s t (bs ++ [lo, hi]) ∧ (n + 2 < 65536 → t.olen.toNat = n + 2) ∧
      t = { s with code := 0x0#4, busy := false, opres := true, olen := t.olen, obuf := t.obuf,
                   faults := s.faults ++ fs, draws := t.draws })

/-- R81: VCRC's FLAG says whether the last two bytes, low first, are the CRC of the rest; false below two bytes, where
no IBUF byte is read; ILLEGAL when ILEN > MAXLEN; nothing else changes. -/
def Obligations.VcrcSetsFlag : Prop :=
  decode 0x23#8 = .vcrc ∧ ∀ s : State, ∃ (n : Nat) (t : State), SeesLen s n ∧ exec .vcrc s = .next t ∧
    (Config.maxLen < n → IllegalOnly s t) ∧
    (n < 2 → t = { s with code := 0x0#4, busy := false, flag := false, draws := t.draws }) ∧
    (2 ≤ n → n ≤ Config.maxLen → ∃ (p : List Byte) (lo hi : Byte) (fs : List Fault),
      EngineReads s n (p ++ [lo, hi]) fs ∧
      t = { s with code := 0x0#4, busy := false,
                   flag := decide ((crc16 p).toNat = lo.toNat + 256 * hi.toNat),
                   faults := s.faults ++ fs, draws := t.draws })

/-- R89: MBAP stores the six header bytes (TID, 0x0000, ILEN + 1, each high byte first) and the PDU, and TID moves on by
one, wrapping; a PDU of more than 252 bytes is FRAME_TOO_LARGE, reads nothing and keeps TID; ILLEGAL when
ILEN > MAXLEN. -/
def Obligations.MbapBuildsFrame : Prop :=
  decode 0x31#8 = .mbap ∧ ∀ s : State, ∃ (n : Nat) (t : State), SeesLen s n ∧ exec .mbap s = .next t ∧
    (Config.maxLen < n → IllegalOnly s t) ∧
    (252 < n → n ≤ Config.maxLen →
      t = { s with code := 0x2#4, busy := false, opres := false, olen := 0#16, draws := t.draws }) ∧
    (n ≤ 252 → ∃ (bs out : List Byte) (fs : List Fault), EngineReads s n bs fs ∧
      out.map BitVec.toNat = [s.tid.toNat / 256, s.tid.toNat % 256, 0, 0, (n + 1) / 256, (n + 1) % 256] ++
        bs.map BitVec.toNat ∧
      Stores s t out ∧
      t = { s with code := 0x0#4, busy := false, opres := true, olen := BitVec.ofNat 16 (n + 6), obuf := t.obuf,
                   tid := BitVec.ofNat 16 ((s.tid.toNat + 1) % 65536), faults := s.faults ++ fs, draws := t.draws })

/-- R100, and R93, which the spec marks as derived from R92 and R94 to R96: every command, from every state, completes
in one step: BUSY falls and CODE is one of OK, FORMAT_ERROR, FRAME_TOO_LARGE and ILLEGAL. CMD, BUSYERR, the operands
ILEN, IPRES, WIN and IBUF, the refusal mark and the host's side are as before. -/
def Obligations.EveryCommandCompletesOnce : Prop :=
  ∀ (i : Instr) (s : State), ∃ t, exec i s = .next t ∧ t.busy = false ∧
    (t.code = 0x0#4 ∨ t.code = 0x1#4 ∨ t.code = 0x2#4 ∨ t.code = 0xF#4) ∧
    t.cmd = s.cmd ∧ t.busyerr = s.busyerr ∧ t.ilen = s.ilen ∧ t.ipres = s.ipres ∧ t.win = s.win ∧
    (∀ k, t.ibuf.read k = s.ibuf.read k) ∧ t.refusal = s.refusal ∧ t.inputs = s.inputs ∧ t.reads = s.reads

/-- R97: a command's code is decided by the first condition that holds, in R97's order; VCRC below two bytes has
FLAG = 0; a fault is recorded beside the code. -/
def Obligations.CompletionCodePriority : Prop :=
  ∀ (w : Byte) (s : State), s.OperandsStable → ∃ t, exec (decode w) s = .next t ∧ t.code = priorityCode w s ∧
    (w = 0x23#8 → s.ilen.toNat < 2 → t.flag = false) ∧
    (w = 0x12#8 → s.ipres = false → t.opres = false ∧ t.olen = 0#16) ∧
    ∃ fs, t.faults = s.faults ++ fs

/-- R56: while a command is outstanding and it is the engine's turn, step is exec of the decoded CMD; the turn comes
when the drawn delay is over or no input is pending (log 2), and a command word that is placed (log 13) runs next. -/
def Obligations.StepRunsOutstandingCommand : Prop :=
  (∀ s : State, s.refusal = none → engineTurn s = true → step s = exec (decode s.cmd) s) ∧
  (∀ s : State, engineTurn s = true ↔ s.busy = true ∧ (s.delay = 0 ∨ s.inputs = [])) ∧
  ∀ (s : State) (w : Nat), w < 256 →
    step (s.withFetchWord 8 w) = exec (decode (BitVec.ofNat 8 w)) (s.withFetchWord 8 w)

/-- 20_memory R34, R43 and the model's inputs (logs 1, 2, 12): when it is not the engine's turn, step takes the first
pending input and performs it: a host access by `perform`, a reset by `resetBlock`; with none pending nothing happens
(R113). The loops poll and mvout go on as HostLoopsGoOn says. -/
def Obligations.StepTakesNextInput : Prop :=
  (∀ (s : State) (op : Input) (rest : List Input), s.refusal = none → engineTurn s = false →
    s.inputs = op :: rest → step s = .next (runInput op { s with inputs := rest, delay := s.delay - 1 })) ∧
  (∀ (s : State) (a : HostAccess) (rest : List Input), s.refusal = none → engineTurn s = false →
    s.inputs = .access a :: rest → step s = .next (perform a (taken s)).2) ∧
  (∀ (s : State) (rest : List Input), s.refusal = none → engineTurn s = false →
    s.inputs = .reset :: rest → step s = .next (resetBlock (taken s))) ∧
  ∀ s : State, s.refusal = none → s.busy = false → s.inputs = [] → step s = .next s

/-- R55: a CMD write is accepted when BUSY = 0 and rejected, setting BUSYERR only, when BUSY = 1. -/
def Obligations.CommandWriteIssues : Prop :=
  ∀ (s : State) (op : Nat), op < 256 → ∃ t, perform (.regWrite 0 op) s = (none, t) ∧
    (s.busy = true → t = { s with busyerr := true }) ∧
    (s.busy = false → t = { s with cmd := BitVec.ofNat 8 op, busyerr := false, busy := true, delay := t.delay,
                                   disturbed := [], draws := t.draws })

/-- R99: BUSYERR is set by a rejected CMD write, cleared by an accepted one (and by reset), and kept by every other
step. A rejected write changes nothing else of the block. -/
def Obligations.BusyerrHistory : Prop :=
  ∀ s t : State, step s = .next t →
    (RejectsCommand s → t = { s with busyerr := true, inputs := t.inputs, delay := t.delay }) ∧
    (AcceptsCommand s → t.busyerr = false) ∧ (TakesReset s → t.busyerr = false) ∧
    (¬ RejectsCommand s → ¬ AcceptsCommand s → ¬ TakesReset s → t.busyerr = s.busyerr)

/-- R22: BUSY is set by an accepted CMD write, cleared by the engine's step (and by reset), and kept by every other
step. -/
def Obligations.BusyHistory : Prop :=
  ∀ s t : State, step s = .next t →
    (AcceptsCommand s → t.busy = true) ∧ (engineTurn s = true → t.busy = false) ∧ (TakesReset s → t.busy = false) ∧
    (¬ AcceptsCommand s → engineTurn s = false → ¬ TakesReset s → t.busy = s.busy)

/-- R15: a host write to STATUS, OLEN, WOUT or TID of a value that fits changes no state, whether or not a command is
outstanding. -/
def Obligations.ReadOnlyWritesIgnored : Prop :=
  ∀ (s : State) (n v : Nat), (n = 1 ∧ v < 256) ∨ ((n = 5 ∨ n = 6 ∨ n = 7) ∧ v < 65536) →
    perform (.regWrite n v) s = (none, s)

/-- R109: the state after power-on, and after a reset of any state: every register at its reset value, no IBUF byte
written, no OBUF byte defined; the fault record and the refusal mark are not reset. -/
def Obligations.ResetValues : Prop :=
  (∀ s : State, s = State.reset ∨ (∃ u, s = runInput .reset u) →
    s.cmd = 0#8 ∧ s.code = 0#4 ∧ s.flag = false ∧ s.opres = false ∧ s.busyerr = false ∧ s.busy = false ∧
    s.ilen = 0#16 ∧ s.ipres = false ∧ s.win = 0#16 ∧ s.olen = 0#16 ∧ s.wout = 0#16 ∧ s.tid = 0#16 ∧
    (∀ i, s.ibuf.read i = none) ∧ (∀ i, s.obuf.read i = none)) ∧
  ∀ u : State, (runInput .reset u).faults = u.faults ∧ (runInput .reset u).refusal = u.refusal

/-- R111: a reset while a command is outstanding abandons it: the state after it is the state after reset, whatever
the command, but for the model's record and the host's side. -/
def Obligations.ResetAbandonsCommand : Prop :=
  ∀ s : State, s.refusal = none → TakesReset s →
    ∃ t, step s = .next t ∧
      t = { State.reset with faults := s.faults, inputs := s.inputs.tail, reads := s.reads, draws := t.draws }

/-- R101, R102: a step adds to the fault record exactly the named faults of the three cases, and takes nothing from it:
the engine reads an unwritten IBUF byte of those R41 and R52 let it read, the host reads one, or the host writes an
operand while BUSY = 1. A state with a fault on record is not final. -/
def Obligations.FaultsExactlyAsNamed : Prop :=
  (∀ u : State, u.faults ≠ [] → ¬ u.Final) ∧
  ∀ s t : State, step s = .next t → ∃ fs : List Fault, t.faults = s.faults ++ fs ∧
    ∀ f, f ∈ fs ↔
      (engineTurn s = true ∧ ∃ i, i < readCount s ∧ s.ibuf.read i = none ∧ f = .unwrittenInput s.cmd i) ∨
      (∃ i, hostAccess s = some (.ibufRead i) ∧ i < Config.maxLen ∧ s.ibuf.read i = none ∧ f = .unwrittenRead i) ∨
      (∃ a, hostAccess s = some a ∧ ¬ OutsideInterface a ∧ WritesOperand a ∧ s.busy = true ∧
        f = .operandWriteWhileBusy a)

/-- R103: a step marks the run as refused exactly when it makes an access outside the host interface; and a host program
is refused, and marks the whole run when it is loaded, exactly when a line of it names no command; loading any other
program changes the pending inputs only. That a marked run answers refused for ever, by the name of its mark, is the
model's reading of R103's mark (log 5, DEDUCED); that a program is loaded as pending inputs is log 13. -/
def Obligations.RefusalsExactlyAsNamed : Prop :=
  (∀ s t : State, step s = .next t → (t.refusal ≠ none ↔ ∃ a, hostAccess s = some a ∧ OutsideInterface a)) ∧
  (∀ (s : State) (r : Refusal), s.refusal = some r → step s = .refused r) ∧
  (∀ ls : List HostLine, (∃ r, transcribe ls = .error r) ↔ NamesUnknown ls) ∧
  (∀ (ls : List HostLine) (s : State), NamesUnknown ls →
    ∃ m, m ∉ mnemonics ∧ loadProgram ls s = { s with refusal := some (.unknownMnemonic m) }) ∧
  ∀ (ls : List HostLine) (s : State), ¬ NamesUnknown ls →
    ∃ ops, transcribe ls = .ok ops ∧ loadProgram ls s = { s with inputs := s.inputs ++ ops }

/-- R117: while BUSY = 1, CMD, ILEN, IPRES, WIN, written IBUF bytes and the bits BUSY and BUSYERR read exactly; STATUS's
other bits, OLEN, WOUT, TID and every OBUF byte read as some value of their width: the free value of that read's own
number, so a fresh one at each read (log 6). A read changes nothing but the host's log. -/
def Obligations.HostReadsWhileBusy : Prop :=
  ∀ s : State, s.busy = true →
    (∀ n, n < 8 → ∃ v w,
      perform (.regRead n) s = (some v, { s with reads := (.regRead n, v) :: s.reads }) ∧
      regWidths[n]? = some w ∧ v < 2 ^ w ∧
      (n = 0 → v = s.cmd.toNat) ∧ (n = 1 → v / 128 = 1 ∧ v / 64 % 2 = s.busyerr.toNat) ∧
      (n = 2 → v = s.ilen.toNat) ∧ (n = 3 → v = s.ipres.toNat) ∧ (n = 4 → v = s.win.toNat) ∧
      (n = 1 → v % 64 = (Config.busyWord s.reads.length).toNat % 64) ∧
      (5 ≤ n → v = (Config.busyWord s.reads.length).toNat)) ∧
    (∀ i b, i < Config.maxLen → s.ibuf.read i = some b →
      perform (.ibufRead i) s = (some b.toNat, { s with reads := (.ibufRead i, b.toNat) :: s.reads })) ∧
    ∀ i, i < 3 * Config.maxLen →
      let v := (Config.busyByte s.reads.length).toNat
      perform (.obufRead i) s = (some v, { s with reads := (.obufRead i, v) :: s.reads })

/-- 10_state R17, R29, 20_memory R34, R38, R44: while BUSY = 0 every register reads as it stands, STATUS with CODE in
[3:0], FLAG [4], OPRES [5], BUSYERR [6]; a written IBUF byte reads as it stands; a defined OBUF byte below OLEN reads as
it stands and any other as the free value of that read's own number, so a fresh one at each read (R118; log 7). These
reads change nothing but the host's log. A read of an IBUF byte never written returns some byte and records its fault
(R101), and a second read of it returns the same byte (R38; log 8). -/
def Obligations.HostReadsWhenIdle : Prop :=
  ∀ s : State, s.busy = false →
    (∀ n v, [s.cmd.toNat, s.code.toNat + 16 * s.flag.toNat + 32 * s.opres.toNat + 64 * s.busyerr.toNat, s.ilen.toNat,
        s.ipres.toNat, s.win.toNat, s.olen.toNat, s.wout.toNat, s.tid.toNat][n]? = some v →
      perform (.regRead n) s = (some v, { s with reads := (.regRead n, v) :: s.reads })) ∧
    (∀ i b, i < Config.maxLen → s.ibuf.read i = some b →
      perform (.ibufRead i) s = (some b.toNat, { s with reads := (.ibufRead i, b.toNat) :: s.reads })) ∧
    (∀ i, i < Config.maxLen → s.ibuf.read i = none → ∃ v, v < 256 ∧ ∀ rs fs,
      perform (.ibufRead i) { s with reads := rs, faults := fs } =
        (some v, { s with reads := (.ibufRead i, v) :: rs, faults := fs ++ [.unwrittenRead i] })) ∧
    (∀ i b, i < 3 * Config.maxLen → i < s.olen.toNat → s.obuf.read i = some b →
      perform (.obufRead i) s = (some b.toNat, { s with reads := (.obufRead i, b.toNat) :: s.reads })) ∧
    ∀ i, i < 3 * Config.maxLen → s.olen.toNat ≤ i ∨ s.obuf.read i = none →
      let v := (Config.undefinedByte s.reads.length).toNat
      perform (.obufRead i) s = (some v, { s with reads := (.obufRead i, v) :: s.reads })

/-- 20_memory R34, 70_reset R116, R120: a host write of IBUF, ILEN, IPRES or WIN takes effect at once and changes no
other register or byte; while BUSY = 1 it also records the fault, and the outstanding command may see any value of that
operand (log 9). -/
def Obligations.OperandWritesTakeEffect : Prop :=
  (∀ (s : State) (i b : Nat), i < Config.maxLen → b < 256 → ∃ t, perform (.ibufWrite i b) s = (none, t) ∧
    (∀ j, t.ibuf.read j = if j = i then some (BitVec.ofNat 8 b) else s.ibuf.read j) ∧
    (s.busy = false → t = { s with ibuf := t.ibuf, draws := t.draws }) ∧
    (s.busy = true → t = { s with ibuf := t.ibuf, faults := s.faults ++ [.operandWriteWhileBusy (.ibufWrite i b)],
                                  disturbed := .ibuf i :: s.disturbed, draws := t.draws })) ∧
  (∀ (s : State) (v : Nat), v < 65536 → ∃ t, perform (.regWrite 2 v) s = (none, t) ∧
    (s.busy = false → t = { s with ilen := BitVec.ofNat 16 v, draws := t.draws }) ∧
    (s.busy = true → t = { s with ilen := BitVec.ofNat 16 v,
                                  faults := s.faults ++ [.operandWriteWhileBusy (.regWrite 2 v)],
                                  disturbed := .ilen :: s.disturbed, draws := t.draws })) ∧
  (∀ (s : State) (v : Nat), v < 2 → ∃ t, perform (.regWrite 3 v) s = (none, t) ∧
    (s.busy = false → t = { s with ipres := decide (v = 1), draws := t.draws }) ∧
    (s.busy = true → t = { s with ipres := decide (v = 1),
                                  faults := s.faults ++ [.operandWriteWhileBusy (.regWrite 3 v)],
                                  disturbed := .ipres :: s.disturbed, draws := t.draws })) ∧
  ∀ (s : State) (v : Nat), v < 65536 → ∃ t, perform (.regWrite 4 v) s = (none, t) ∧
    (s.busy = false → t = { s with win := BitVec.ofNat 16 v, draws := t.draws }) ∧
    (s.busy = true → t = { s with win := BitVec.ofNat 16 v,
                                  faults := s.faults ++ [.operandWriteWhileBusy (.regWrite 4 v)],
                                  disturbed := .win :: s.disturbed, draws := t.draws })

/-- R44: once BUSY = 0, every result stays until the next accepted CMD write (or a reset). -/
def Obligations.ResultsStayUntilNextCommand : Prop :=
  ∀ s t : State, step s = .next t → s.busy = false → ¬ AcceptsCommand s → ¬ TakesReset s →
    t.busy = false ∧ t.code = s.code ∧ t.flag = s.flag ∧ t.opres = s.opres ∧ t.olen = s.olen ∧ t.wout = s.wout ∧
    t.tid = s.tid ∧ ∀ i, t.obuf.read i = s.obuf.read i

/-- R88: an MBAP command that completes with OK puts TID, as it stands at its step, at offsets 0 and 1, high byte first,
and in the same step moves TID on by one, wrapping; a reset sets TID to 0; every other step keeps it, that of an MBAP
that completes with an error among them. -/
def Obligations.TidHistory : Prop :=
  ∀ s t : State, step s = .next t →
    (engineTurn s = true → s.cmd = 0x31#8 → t.code = 0x0#4 →
      (t.obuf.read 0).map BitVec.toNat = some (s.tid.toNat / 256) ∧
      (t.obuf.read 1).map BitVec.toNat = some (s.tid.toNat % 256) ∧ t.tid.toNat = (s.tid.toNat + 1) % 65536) ∧
    (TakesReset s → t.tid = 0#16) ∧
    (¬ (engineTurn s = true ∧ s.cmd = 0x31#8 ∧ t.code = 0x0#4) → ¬ TakesReset s → t.tid = s.tid)

/-- R121, R122: from every state with a command outstanding and the host polling, the poll ends after finitely many
steps, with the command executed exactly once on the operands as they stood, and its results visible. The bound is the
drawn delay, so the weak fairness of R121 is the finiteness of that free value (log 2). -/
def Obligations.PollEndsWithResults : Prop :=
  ∀ (s : State) (rest : List Input), s.refusal = none → s.busy = true → s.inputs = .poll :: rest →
    ∃ u v t : State, Sys2Proof.core.run (s.delay + 2) s = .next t ∧
      u = { s with reads := u.reads, delay := 0 } ∧
      exec (decode s.cmd) u = .next v ∧
      t = { v with inputs := rest, reads := t.reads } ∧ t.busy = false

/-- 30_encoding R61: mvout on an idle block copies a defined output to IBUF and sets ILEN and IPRES for it, with one
host access a step. -/
def Obligations.MvoutCopiesOutput : Prop :=
  ∀ (s : State) (rest : List Input) (bs : List Byte), s.refusal = none → s.busy = false → s.inputs = .mvout :: rest →
    s.olen.toNat = bs.length → bs.length ≤ Config.maxLen → (∀ i, i < bs.length → s.obuf.read i = bs[i]?) →
    ∃ t : State, Sys2Proof.core.run (2 * bs.length + 3) s = .next t ∧
      t = { s with inputs := rest, ilen := s.olen, ipres := true, ibuf := t.ibuf, reads := t.reads,
                   delay := t.delay, draws := t.draws } ∧
      (∀ i, i < bs.length → t.ibuf.read i = bs[i]?) ∧ ∀ i, bs.length ≤ i → t.ibuf.read i = s.ibuf.read i

/-- R60 to R62: every line of a host program is the accesses of the tables of R60 and R61, for all its operands: a
register by its name (the eight numbers of 10_state R15) or its number; a command by each of the ten mnemonics; any
other mnemonic is refused. A program is its lines in order. That `cmd 0x<hh>` takes any word, and not a reserved one alone, is
the model's choice (log 20), as is the code of a character outside ASCII (log 21). poll and mvout stand as inputs that
HostLoopsGoOn gives (log 1). -/
def Obligations.HostLinesExpand : Prop :=
  (∀ r n v, (r, n) ∈ regNumbers → transcribeLine (.wr (.name r) v) = .ok [.access (.regWrite n v)] ∧
    transcribeLine (.rd (.name r)) = .ok [.access (.regRead n)]) ∧
  (∀ r : Reg, ∃ n, (r, n) ∈ regNumbers) ∧
  (∀ n v, transcribeLine (.wr (.number n) v) = .ok [.access (.regWrite n v)] ∧
    transcribeLine (.rd (.number n)) = .ok [.access (.regRead n)]) ∧
  (∀ i b, transcribeLine (.wb i b) = .ok [.access (.ibufWrite i b)] ∧
    transcribeLine (.rb i) = .ok [.access (.ibufRead i)] ∧ transcribeLine (.ob i) = .ok [.access (.obufRead i)]) ∧
  (∀ m w, (m, w) ∈ mnemonics.zip opcodes → transcribeLine (.cmd m) = .ok [.access (.regWrite 0 w)] ∧
    transcribeLine (.run m) = .ok [.access (.regWrite 0 w), .poll]) ∧
  (∀ m, m ∉ mnemonics → transcribeLine (.cmd m) = .error (.unknownMnemonic m) ∧
    transcribeLine (.run m) = .error (.unknownMnemonic m)) ∧
  (∀ w, transcribeLine (.cmdWord w) = .ok [.access (.regWrite 0 w)]) ∧
  transcribeLine .poll = .ok [.poll] ∧ transcribeLine .mvout = .ok [.mvout] ∧
  (∀ bs, transcribeLine (.ldbytes bs) = .ok ((loadAccesses bs).map .access)) ∧
  (∀ text, transcribeLine (.ldtext text) = .ok ((loadAccesses (text.toList.map Char.toNat)).map .access)) ∧
  (∀ v, transcribeLine (.ldword v) = .ok [.access (.regWrite 4 v)]) ∧
  transcribe [] = .ok [] ∧
  ∀ l ls ops rest, transcribeLine l = .ok ops → transcribe ls = .ok rest → transcribe (l :: ls) = .ok (ops ++ rest)

/-- 10_state R26, R29, R30, 60_exceptions R93, 70_reset R118: the block's invariant is kept by every step, from every
state that has it. -/
def Obligations.StepKeepsInvariant : Prop := ∀ s t : State, s.Inv → step s = .next t → t.Inv

/-- The invariant holds at reset. -/
def Obligations.ResetHasInvariant : Prop := State.reset.Inv

/-- R32: what a command leaves depends on its opcode and its operands alone, and on TID for MBAP: two states that agree
on those, with no operand written under the command and every IBUF byte the command reads written (none for a command
that reads none), complete with the same code, the same presence and length of output, the same output bytes and the
same word and flag, each result being either the same in both or kept in both. -/
def Obligations.ResultsDependOnOperandsOnly : Prop :=
  ∀ (w : Byte) (s₁ s₂ t₁ t₂ : State), s₁.OperandsStable → s₂.OperandsStable → s₁.ilen = s₂.ilen →
    s₁.ipres = s₂.ipres → s₁.win = s₂.win → s₁.ibuf = s₂.ibuf → (w = 0x31#8 → s₁.tid = s₂.tid) →
    s₁.InputWritten (readCount { s₁ with cmd := w }) →
    exec (decode w) s₁ = .next t₁ → exec (decode w) s₂ = .next t₂ →
    t₁.code = t₂.code ∧
    (t₁.wout = t₂.wout ∨ (t₁.wout = s₁.wout ∧ t₂.wout = s₂.wout)) ∧
    (t₁.flag = t₂.flag ∨ (t₁.flag = s₁.flag ∧ t₂.flag = s₂.flag)) ∧
    (t₁.tid = t₂.tid ∨ (t₁.tid = s₁.tid ∧ t₂.tid = s₂.tid)) ∧
    ((t₁.olen = t₂.olen ∧ t₁.opres = t₂.opres ∧ ∀ i, i < t₁.olen.toNat → t₁.obuf.read i = t₂.obuf.read i) ∨
      (t₁.olen = s₁.olen ∧ t₁.opres = s₁.opres ∧ t₁.obuf = s₁.obuf ∧
        t₂.olen = s₂.olen ∧ t₂.opres = s₂.opres ∧ t₂.obuf = s₂.obuf))

/-- R67, which the spec marks as derived from R63 to R66: the four converters. LEW16 undoes W16LE and BEW16 undoes
W16BE, in both directions; W16BE's output is W16LE's with its bytes swapped; LEW16 of a pair is BEW16 of the swapped
pair. -/
def Obligations.EndianConverterLaws : Prop :=
  (∀ (s t u v : State) (bs : List Byte), s.OperandsStable → exec .w16le s = .next t → OutputIs t bs → InputIs u bs →
    exec .lew16 u = .next v → v.wout = s.win) ∧
  (∀ (s t u v : State) (bs : List Byte), s.OperandsStable → exec .w16be s = .next t → OutputIs t bs → InputIs u bs →
    exec .bew16 u = .next v → v.wout = s.win) ∧
  (∀ (u v s t : State) (b0 b1 : Byte), InputIs u [b0, b1] → exec .lew16 u = .next v → s.OperandsStable →
    s.win = v.wout → exec .w16le s = .next t → OutputIs t [b0, b1]) ∧
  (∀ (u v s t : State) (b0 b1 : Byte), InputIs u [b0, b1] → exec .bew16 u = .next v → s.OperandsStable →
    s.win = v.wout → exec .w16be s = .next t → OutputIs t [b0, b1]) ∧
  (∀ (s t₁ t₂ : State) (b0 b1 : Byte), exec .w16le s = .next t₁ → OutputIs t₁ [b0, b1] →
    exec .w16be s = .next t₂ → OutputIs t₂ [b1, b0]) ∧
  ∀ (u₁ u₂ v₁ v₂ : State) (b0 b1 : Byte), InputIs u₁ [b0, b1] → InputIs u₂ [b1, b0] → exec .lew16 u₁ = .next v₁ →
    exec .bew16 u₂ = .next v₂ → v₁.wout = v₂.wout

/-- R76, which the spec marks as derived from R72 and R74: H2B of B2H's output gives the bytes back; and B2H of what H2B
accepts gives the canonical form of the text: its digits in order, lower case, with a space after every second one. The
second part is said where the canonical form's length fits in OLEN, since the spec states no OLEN elsewhere (log 10). -/
def Obligations.HexRoundTrips : Prop :=
  (∀ (s t u : State) (bs out : List Byte), 3 * bs.length ≤ Config.maxLen → InputIs s bs → exec .b2h s = .next t →
    OutputIs t out → InputIs u out → ∃ v, exec .h2b u = .next v ∧ OutputIs v bs) ∧
  ∀ (s t u : State) (text bs : List Byte), InputIs s text → text.length ≤ Config.maxLen → exec .h2b s = .next t →
    OutputIs t bs → InputIs u bs → 3 * bs.length < 65536 →
    ∃ (v : State) (out : List Byte), exec .b2h u = .next v ∧ OutputIs v out ∧
      out.length = 3 * ((strippedText text).length / 2) ∧
      ∀ k, k < (strippedText text).length / 2 →
        (∃ d, (strippedText text)[2 * k]?.bind digitValue = some d ∧
          out[3 * k]?.map BitVec.toNat = some (digitCode d)) ∧
        (∃ d, (strippedText text)[2 * k + 1]?.bind digitValue = some d ∧
          out[3 * k + 1]?.map BitVec.toNat = some (digitCode d)) ∧
        out[3 * k + 2]? = some 0x20#8

/-- R73, which the spec marks as derived from R70 to R72: H2B's output has at most half as many bytes as the text, H2B
succeeds exactly on an even number of hex digits, and two texts whose stripped digits have the same values, one by one,
give the same completion: case and the place of whitespace do not matter. -/
def Obligations.H2bIgnoresCaseAndWhitespace : Prop :=
  (∀ (s t : State) (text : List Byte), InputIs s text → text.length ≤ Config.maxLen → exec .h2b s = .next t →
    t.olen.toNat ≤ text.length / 2 ∧
    (t.code = 0x0#4 ↔ (strippedText text).length % 2 = 0 ∧ ∀ c ∈ strippedText text, (digitValue c).isSome = true)) ∧
  ∀ (s₁ s₂ t₁ t₂ : State) (x₁ x₂ : List Byte), InputIs s₁ x₁ → InputIs s₂ x₂ → x₁.length ≤ Config.maxLen →
    x₂.length ≤ Config.maxLen → (strippedText x₁).map digitValue = (strippedText x₂).map digitValue →
    exec .h2b s₁ = .next t₁ → exec .h2b s₂ = .next t₂ →
    t₁.code = t₂.code ∧ t₁.olen = t₂.olen ∧ t₁.opres = t₂.opres ∧
      ∀ i, i < t₁.olen.toNat → t₁.obuf.read i = t₂.obuf.read i

/-- R77, whose points (1) to (3) the spec takes from general knowledge (log 14): crc16 starts from 0xFFFF; each byte is
added into the low 8 bits, and eight times the register is shifted right with 0xA001 added when the bit shifted out is
1; nothing is done at the end. Over numbers, with the check value of the nine bytes of "123456789". -/
def Obligations.CrcLoop : Prop :=
  crc16 [] = 0xFFFF#16 ∧
  (∀ (bs : List Byte) (b : Byte), ∃ r : Nat → Nat, r 0 = (crc16 bs).toNat ^^^ b.toNat ∧
    (∀ k, k < 8 → r (k + 1) = if r k % 2 = 1 then (r k / 2) ^^^ 0xA001 else r k / 2) ∧
    (crc16 (bs ++ [b])).toNat = r 8) ∧
  crc16 [0x31#8, 0x32#8, 0x33#8, 0x34#8, 0x35#8, 0x36#8, 0x37#8, 0x38#8, 0x39#8] = 0x4B37#16

/-- R82, which the spec marks as derived from R77 and R81: VCRC below two bytes is false and records no fault; on two
bytes it is true for FF FF alone; and a frame with its CRC appended high byte first verifies only if the two CRC bytes
are equal. -/
def Obligations.VcrcCornerCases : Prop :=
  (∀ s t : State, s.OperandsStable → s.ilen.toNat < 2 → exec .vcrc s = .next t →
    t.flag = false ∧ t.code = 0#4 ∧ t.faults = s.faults) ∧
  (∀ (s t : State) (b0 b1 : Byte), InputIs s [b0, b1] → exec .vcrc s = .next t →
    (t.flag = true ↔ b0 = 0xFF#8 ∧ b1 = 0xFF#8)) ∧
  ∀ (s t : State) (p : List Byte) (lo hi : Byte), p.length + 2 ≤ Config.maxLen →
    (crc16 p).toNat = lo.toNat + 256 * hi.toNat → InputIs s (p ++ [hi, lo]) → exec .vcrc s = .next t →
    (t.flag = true ↔ lo = hi)

/-- R83, which the spec marks as derived from R80 and R81, its second law as general knowledge: VCRC of ACRC's output is
true; and the CRC of the len(b) + 2 bytes ACRC stores is 0, for every b that ACRC accepts. -/
def Obligations.AcrcThenVcrcHolds : Prop :=
  (∀ (s t u : State) (bs out : List Byte), bs.length + 2 ≤ Config.maxLen → InputIs s bs → exec .acrc s = .next t →
    OutputIs t out → InputIs u out → ∃ v, exec .vcrc u = .next v ∧ v.code = 0x0#4 ∧ v.flag = true) ∧
  ∀ (s t : State) (bs out : List Byte), bs.length ≤ Config.maxLen → InputIs s bs → exec .acrc s = .next t →
    out.length = bs.length + 2 → (∀ i, i < out.length → t.obuf.read i = out[i]?) → crc16 out = 0x0000#16

/-- R84, which the spec says follows from R77 by general knowledge: flipping any single bit of ACRC's output makes VCRC
false. -/
def Obligations.SingleBitFlipIsDetected : Prop :=
  ∀ (s t u : State) (bs out : List Byte) (j k : Nat), bs.length + 2 ≤ Config.maxLen → InputIs s bs →
    exec .acrc s = .next t → OutputIs t out → j < out.length → k < 8 → InputIs u (flipBit j k out) →
    ∃ v, exec .vcrc u = .next v ∧ v.code = 0x0#4 ∧ v.flag = false

/-- R91, which the spec marks as derived from R85 to R90: an MBAP frame of n ≤ 252 bytes is 6 to 258 bytes long with
0x00 at offset 4 and n + 1 at offset 5, and two successive successful MBAP commands emit TIDs that differ by one,
whatever steps that keep TID come between. -/
def Obligations.MbapHeaderConsequences : Prop :=
  (∀ (s t : State) (p out : List Byte), InputIs s p → p.length ≤ 252 → exec .mbap s = .next t → OutputIs t out →
    out.length = p.length + 6 ∧ 6 ≤ out.length ∧ out.length ≤ 258 ∧
    out[4]? = some 0x00#8 ∧ out[5]?.map BitVec.toNat = some (p.length + 1)) ∧
  ∀ (s t u v : State) (p q x y : List Byte), InputIs s p → InputIs u q → exec .mbap s = .next t → OutputIs t x →
    u.tid = t.tid → exec .mbap u = .next v → OutputIs v y →
    ∀ a0 a1 b0 b1 : Byte, x[0]? = some a0 → x[1]? = some a1 → y[0]? = some b0 → y[1]? = some b1 →
      256 * b0.toNat + b1.toNat = (256 * a0.toNat + a1.toNat + 1) % 65536

/-- 30_encoding R61: the loops poll and mvout, one host access a step. poll goes on while bit 7 of the value it read is
1; mvout reads OLEN, then for each index reads OBUF and writes the byte read to IBUF, then writes ILEN and IPRES. That
they stand as pending inputs is the model's (log 1). -/
def Obligations.HostLoopsGoOn : Prop :=
  ∀ s : State, s.refusal = none → engineTurn s = false →
    (∀ rest v t, s.inputs = .poll :: rest → perform (.regRead 1) (taken s) = (some v, t) →
      step s = .next { t with inputs := if v / 128 % 2 = 1 then .poll :: rest else rest }) ∧
    (∀ rest k t, s.inputs = .mvout :: rest → perform (.regRead 5) (taken s) = (some k, t) →
      step s = .next { t with inputs := .mvoutRead 0 k :: rest }) ∧
    (∀ rest i k b t, s.inputs = .mvoutRead i k :: rest → i < k → perform (.obufRead i) (taken s) = (some b, t) →
      step s = .next { t with inputs := .mvoutWrite i k b :: rest }) ∧
    (∀ rest i k b t, s.inputs = .mvoutWrite i k b :: rest → perform (.ibufWrite i b) (taken s) = (none, t) →
      step s = .next { t with inputs := .mvoutRead (i + 1) k :: rest }) ∧
    ∀ rest i k t, s.inputs = .mvoutRead i k :: rest → k ≤ i → perform (.regWrite 2 k) (taken s) = (none, t) →
      step s = .next { t with inputs := .access (.regWrite 3 1) :: rest }
end

