-- ==== Sys2Proof/Laws/Codec.lean ====
section
/-! SUPPORT. The small lemmas of the codec's functions: the byte pairs, the hex text, the CRC register and the two
frames. Proofs about the commands cite these and unfold none of the functions. -/

namespace Sys2Proof.Machine

/-! ## Byte pairs (spec/40_endian.md) -/

theorem wordLE_toNat (b0 b1 : Byte) : (wordLE b0 b1).toNat = b0.toNat + 256 * b1.toNat := by
  have := b0.isLt
  have := b1.isLt
  simp [wordLE, BitVec.toNat_add, BitVec.toNat_mul]
  omega

theorem wordBE_toNat (b0 b1 : Byte) : (wordBE b0 b1).toNat = 256 * b0.toNat + b1.toNat := by
  have := b0.isLt
  have := b1.isLt
  simp [wordBE, BitVec.toNat_add, BitVec.toNat_mul]
  omega

theorem lowByte_toNat (v : Word) : (lowByte v).toNat = v.toNat % 256 := by simp [lowByte]

theorem highByte_toNat (v : Word) : (highByte v).toNat = v.toNat / 256 := by
  have := v.isLt
  simp [highByte, Nat.shiftRight_eq_div_pow]
  omega

theorem wordLE_low_high (v : Word) : wordLE (lowByte v) (highByte v) = v := by
  apply BitVec.eq_of_toNat_eq
  rw [wordLE_toNat, lowByte_toNat, highByte_toNat]
  omega

theorem wordBE_high_low (v : Word) : wordBE (highByte v) (lowByte v) = v := by
  apply BitVec.eq_of_toNat_eq
  rw [wordBE_toNat, lowByte_toNat, highByte_toNat]
  omega

theorem lowByte_wordLE (b0 b1 : Byte) : lowByte (wordLE b0 b1) = b0 := by
  apply BitVec.eq_of_toNat_eq
  have := b0.isLt
  rw [lowByte_toNat, wordLE_toNat]
  omega

theorem highByte_wordLE (b0 b1 : Byte) : highByte (wordLE b0 b1) = b1 := by
  apply BitVec.eq_of_toNat_eq
  have := b0.isLt
  rw [highByte_toNat, wordLE_toNat]
  omega

/-! ## Hex text (spec/41_hex_codec.md) -/

theorem hexText_cons (b : Byte) (bs : List Byte) :
    hexText (b :: bs) =
      hexDigit (b.extractLsb' 4 4) :: hexDigit (b.extractLsb' 0 4) :: 0x20#8 :: hexText bs := rfl

theorem hexText_length (bs : List Byte) : (hexText bs).length = 3 * bs.length := by
  induction bs with
  | nil => rfl
  | cons b bs ih => simp only [hexText_cons, List.length_cons, ih]; omega

theorem hexval_hexDigit : ∀ d : BitVec 4, hexval (hexDigit d) = some (d.setWidth 8) := by decide

theorem stripText_length_le (bs : List Byte) : (stripText bs).length ≤ bs.length := List.length_filter_le _ _

theorem pairBytes_length_le (t : List Byte) : (pairBytes t).length ≤ t.length / 2 := by
  induction t using pairBytes.induct with
  | case1 hi lo t ih => simp only [pairBytes, List.length_cons]; omega
  | case2 t ht =>
    match t, ht with
    | [], _ => simp [pairBytes]
    | [a], _ => simp [pairBytes]
    | a :: b :: t, ht => exact absurd rfl (ht a b t)

/-! ## The CRC register (spec/42_crc16.md) -/

/-- One bit over numbers: halve, with 0xA001 added when the bit shifted out is 1. -/
theorem crcBit_toNat (r : Word) :
    (crcBit r).toNat = if r.toNat % 2 = 1 then (r.toNat / 2) ^^^ 0xA001 else r.toNat / 2 := by
  have : r.getLsbD 0 = decide (r.toNat % 2 = 1) := by simp [BitVec.getLsbD]
  unfold crcBit
  rw [this]
  by_cases h : r.toNat % 2 = 1 <;> simp [h, Config.crcPoly, Nat.shiftRight_eq_div_pow]

theorem crc16_snoc (bs : List Byte) (b : Byte) : crc16 (bs ++ [b]) = crcByte (crc16 bs) b := by simp [crc16]

/-- One bit loses nothing: 0xA001 has bit 15, which a shifted register has not. -/
theorem crcBit_injective {a b : Word} (h : crcBit a = crcBit b) : a = b := by
  have hn := congrArg BitVec.toNat h
  have ha := a.isLt
  have hb := b.isLt
  have tb : ∀ x : Nat, x < 32768 → (x ^^^ 0xA001) ≥ 32768 := by
    intro x hx
    have : (x ^^^ 0xA001).testBit 15 = true := by
      rw [Nat.testBit_xor, Nat.testBit_lt_two_pow (by omega : x < 2 ^ 15)]
      decide
    exact Nat.ge_two_pow_of_testBit this
  rw [crcBit_toNat, crcBit_toNat] at hn
  apply BitVec.eq_of_toNat_eq
  split at hn <;> split at hn
  · have : a.toNat / 2 = b.toNat / 2 := by
      have := congrArg (· ^^^ 0xA001) hn
      simpa [Nat.xor_assoc] using this
    omega
  · have := tb (a.toNat / 2) (by omega)
    omega
  · have := tb (b.toNat / 2) (by omega)
    omega
  · omega

theorem crcBits_injective (k : Nat) {a b : Word} (h : crcBits k a = crcBits k b) : a = b := by
  induction k generalizing a b with
  | zero => exact h
  | succ k ih => exact crcBit_injective (ih h)

theorem verifyFrame_append (p : List Byte) (lo hi : Byte) :
    verifyFrame (p ++ [lo, hi]) = (crc16 p == wordLE lo hi) := by
  unfold verifyFrame
  simp [List.getD_eq_getElem?_getD]

/-! ## Frame lengths -/

theorem rtuFrame_length (p : List Byte) : (rtuFrame p).length = p.length + 2 := by simp [rtuFrame, bytesLE]

theorem mbapFrame_length (t : Word) (p : List Byte) : (mbapFrame t p).length = p.length + 6 := by
  simp [mbapFrame, bytesBE]

end Sys2Proof.Machine
end

