-- ==== Sys2Proof/Laws/Memory.lean ====
section
/-! SUPPORT. The laws of buffer reads and writes: a read after a write, at the place written and elsewhere, and that
every memory operation keeps the canonical form. -/

namespace Sys2Proof.Machine

@[simp] theorem memory_read_nil (i : Nat) : Memory.read [] i = none := rfl

/-- A read after a write gives the byte written at its index, and what stood there before everywhere else. -/
@[simp] theorem memory_read_write (m : Memory) (i j : Nat) (b : Byte) :
    (m.write i b).read j = if i = j then some b else m.read j := by
  induction m with
  | nil => rfl
  | cons c m ih =>
    obtain ⟨a, d⟩ := c
    unfold Memory.write
    split
    · rfl
    · split
      · subst i; simp only [Memory.read]; split <;> rfl
      · simp only [Memory.read, ih]
        split <;> split <;> first | rfl | omega

/-- A read after a sequence was written: the sequence inside it, and what stood there before everywhere else. -/
theorem memory_read_writeSeq (m : Memory) (base i : Nat) (bs : List Byte) :
    (m.writeSeq base bs).read i =
      if base ≤ i ∧ i < base + bs.length then bs[i - base]? else m.read i := by
  induction bs generalizing m base with
  | nil => simp only [Memory.writeSeq, List.length_nil]; split <;> [omega; rfl]
  | cons b bs ih =>
    simp only [Memory.writeSeq, ih, memory_read_write, List.length_cons]
    by_cases h : base = i
    · subst h; rw [if_neg (by omega), if_pos rfl, if_pos (by omega)]; simp
    · by_cases h2 : base + 1 ≤ i ∧ i < base + 1 + bs.length
      · rw [if_pos h2, if_pos (by omega), show i - base = (i - (base + 1)) + 1 by omega]; rfl
      · rw [if_neg h2, if_neg h, if_neg (by omega)]

theorem memory_read_writeSeq_inside (m : Memory) (i : Nat) (bs : List Byte) (h : i < bs.length) :
    (m.writeSeq 0 bs).read i = some bs[i] := by
  rw [memory_read_writeSeq, if_pos (by omega)]; simp [h]

theorem memory_read_writeSeq_outside (m : Memory) (i : Nat) (bs : List Byte) (h : bs.length ≤ i) :
    (m.writeSeq 0 bs).read i = m.read i := by
  rw [memory_read_writeSeq, if_neg (by omega)]

/-- The canonical form of a list with a head: the tail is canonical and lies above the head. -/
theorem memory_wf_cons (a : Nat) (b : Byte) (m : Memory) :
    Memory.wf ((a, b) :: m) = true ↔ (∀ c ∈ m.head?, a < c.1) ∧ m.wf = true := by
  cases m with
  | nil => simp [Memory.wf]
  | cons c m => obtain ⟨c, d⟩ := c; simp [Memory.wf]

/-- The first index after a write is the old first one or the index written. -/
theorem memory_write_head (m : Memory) (i : Nat) (b : Byte) :
    ∀ c ∈ (m.write i b).head?, c.1 = i ∨ ∃ d ∈ m.head?, d.1 = c.1 := by
  cases m with
  | nil => simp [Memory.write]
  | cons c m =>
    obtain ⟨a, d⟩ := c
    unfold Memory.write
    split <;> [skip; split] <;> simp_all

/-- Writing a byte keeps the canonical form. -/
theorem memory_wf_write (m : Memory) (i : Nat) (b : Byte) (h : m.wf = true) : (m.write i b).wf = true := by
  induction m with
  | nil => rfl
  | cons c m ih =>
    obtain ⟨a, d⟩ := c
    have hc := (memory_wf_cons a d m).mp h
    unfold Memory.write
    split
    · rw [memory_wf_cons]; exact ⟨by simpa using ‹i < a›, h⟩
    · split
      · subst i; rw [memory_wf_cons]; exact hc
      · rw [memory_wf_cons]
        refine ⟨fun c hcm => ?_, ih hc.2⟩
        obtain h1 | ⟨e, he, h1⟩ := memory_write_head m i b c hcm
        · omega
        · exact h1 ▸ hc.1 e he

/-- Writing a sequence keeps the canonical form. -/
theorem memory_wf_writeSeq (m : Memory) (base : Nat) (bs : List Byte) (h : m.wf = true) :
    (m.writeSeq base bs).wf = true := by
  induction bs generalizing m base with
  | nil => exact h
  | cons b bs ih => exact ih _ _ (memory_wf_write m base b h)

/-- Writing a byte below a buffer's size keeps every index below it. -/
theorem memory_below_write (size : Nat) (m : Memory) (i : Nat) (b : Byte) (hi : i < size)
    (h : m.below size = true) : (m.write i b).below size = true := by
  induction m with
  | nil => simpa [Memory.below, Memory.write] using hi
  | cons c m ih =>
    obtain ⟨a, d⟩ := c
    simp only [Memory.below, List.all_cons, Bool.and_eq_true, decide_eq_true_eq] at h ih ⊢
    unfold Memory.write
    split
    · simp only [List.all_cons, Bool.and_eq_true, decide_eq_true_eq]; exact ⟨hi, h⟩
    · split
      · simp only [List.all_cons, Bool.and_eq_true, decide_eq_true_eq]; exact ⟨hi, h.2⟩
      · simp only [List.all_cons, Bool.and_eq_true, decide_eq_true_eq]; exact ⟨h.1, ih h.2⟩

/-- Writing a sequence that ends below a buffer's size keeps every index below it. -/
theorem memory_below_writeSeq (size : Nat) (m : Memory) (base : Nat) (bs : List Byte)
    (hi : base + bs.length ≤ size) (h : m.below size = true) : (m.writeSeq base bs).below size = true := by
  induction bs generalizing m base with
  | nil => exact h
  | cons b bs ih =>
    rw [List.length_cons] at hi
    exact ih _ _ (by omega) (memory_below_write size m base b (by omega) h)

end Sys2Proof.Machine
end

