-- ==== Sys2Proof/Laws/State.lean ====
section
/-! SUPPORT. What each state update does to each field: one lemma per field per update, each true by rfl, so that no
proof unfolds an update. -/

namespace Sys2Proof.Machine

variable (s : State)

@[simp] theorem tick_cmd : (tick s).cmd = s.cmd := rfl
@[simp] theorem tick_code : (tick s).code = s.code := rfl
@[simp] theorem tick_flag : (tick s).flag = s.flag := rfl
@[simp] theorem tick_opres : (tick s).opres = s.opres := rfl
@[simp] theorem tick_busyerr : (tick s).busyerr = s.busyerr := rfl
@[simp] theorem tick_busy : (tick s).busy = s.busy := rfl
@[simp] theorem tick_ilen : (tick s).ilen = s.ilen := rfl
@[simp] theorem tick_ipres : (tick s).ipres = s.ipres := rfl
@[simp] theorem tick_win : (tick s).win = s.win := rfl
@[simp] theorem tick_olen : (tick s).olen = s.olen := rfl
@[simp] theorem tick_wout : (tick s).wout = s.wout := rfl
@[simp] theorem tick_tid : (tick s).tid = s.tid := rfl
@[simp] theorem tick_ibuf : (tick s).ibuf = s.ibuf := rfl
@[simp] theorem tick_obuf : (tick s).obuf = s.obuf := rfl
@[simp] theorem tick_faults : (tick s).faults = s.faults := rfl
@[simp] theorem tick_refusal : (tick s).refusal = s.refusal := rfl
@[simp] theorem tick_inputs : (tick s).inputs = s.inputs := rfl
@[simp] theorem tick_reads : (tick s).reads = s.reads := rfl
@[simp] theorem tick_delay : (tick s).delay = s.delay := rfl
@[simp] theorem tick_draws : (tick s).draws = s.draws + 1 := rfl
@[simp] theorem tick_disturbed : (tick s).disturbed = s.disturbed := rfl

@[simp] theorem recordFaults_cmd (fs : List Fault) : (recordFaults fs s).cmd = s.cmd := rfl
@[simp] theorem recordFaults_code (fs : List Fault) : (recordFaults fs s).code = s.code := rfl
@[simp] theorem recordFaults_flag (fs : List Fault) : (recordFaults fs s).flag = s.flag := rfl
@[simp] theorem recordFaults_opres (fs : List Fault) : (recordFaults fs s).opres = s.opres := rfl
@[simp] theorem recordFaults_busyerr (fs : List Fault) : (recordFaults fs s).busyerr = s.busyerr := rfl
@[simp] theorem recordFaults_busy (fs : List Fault) : (recordFaults fs s).busy = s.busy := rfl
@[simp] theorem recordFaults_ilen (fs : List Fault) : (recordFaults fs s).ilen = s.ilen := rfl
@[simp] theorem recordFaults_ipres (fs : List Fault) : (recordFaults fs s).ipres = s.ipres := rfl
@[simp] theorem recordFaults_win (fs : List Fault) : (recordFaults fs s).win = s.win := rfl
@[simp] theorem recordFaults_olen (fs : List Fault) : (recordFaults fs s).olen = s.olen := rfl
@[simp] theorem recordFaults_wout (fs : List Fault) : (recordFaults fs s).wout = s.wout := rfl
@[simp] theorem recordFaults_tid (fs : List Fault) : (recordFaults fs s).tid = s.tid := rfl
@[simp] theorem recordFaults_ibuf (fs : List Fault) : (recordFaults fs s).ibuf = s.ibuf := rfl
@[simp] theorem recordFaults_obuf (fs : List Fault) : (recordFaults fs s).obuf = s.obuf := rfl
@[simp] theorem recordFaults_faults (fs : List Fault) : (recordFaults fs s).faults = s.faults ++ fs := rfl
@[simp] theorem recordFaults_refusal (fs : List Fault) : (recordFaults fs s).refusal = s.refusal := rfl
@[simp] theorem recordFaults_inputs (fs : List Fault) : (recordFaults fs s).inputs = s.inputs := rfl
@[simp] theorem recordFaults_reads (fs : List Fault) : (recordFaults fs s).reads = s.reads := rfl
@[simp] theorem recordFaults_delay (fs : List Fault) : (recordFaults fs s).delay = s.delay := rfl
@[simp] theorem recordFaults_draws (fs : List Fault) : (recordFaults fs s).draws = s.draws := rfl
@[simp] theorem recordFaults_disturbed (fs : List Fault) : (recordFaults fs s).disturbed = s.disturbed := rfl

@[simp] theorem refuse_cmd (r : Refusal) : (refuse r s).cmd = s.cmd := rfl
@[simp] theorem refuse_code (r : Refusal) : (refuse r s).code = s.code := rfl
@[simp] theorem refuse_flag (r : Refusal) : (refuse r s).flag = s.flag := rfl
@[simp] theorem refuse_opres (r : Refusal) : (refuse r s).opres = s.opres := rfl
@[simp] theorem refuse_busyerr (r : Refusal) : (refuse r s).busyerr = s.busyerr := rfl
@[simp] theorem refuse_busy (r : Refusal) : (refuse r s).busy = s.busy := rfl
@[simp] theorem refuse_ilen (r : Refusal) : (refuse r s).ilen = s.ilen := rfl
@[simp] theorem refuse_ipres (r : Refusal) : (refuse r s).ipres = s.ipres := rfl
@[simp] theorem refuse_win (r : Refusal) : (refuse r s).win = s.win := rfl
@[simp] theorem refuse_olen (r : Refusal) : (refuse r s).olen = s.olen := rfl
@[simp] theorem refuse_wout (r : Refusal) : (refuse r s).wout = s.wout := rfl
@[simp] theorem refuse_tid (r : Refusal) : (refuse r s).tid = s.tid := rfl
@[simp] theorem refuse_ibuf (r : Refusal) : (refuse r s).ibuf = s.ibuf := rfl
@[simp] theorem refuse_obuf (r : Refusal) : (refuse r s).obuf = s.obuf := rfl
@[simp] theorem refuse_faults (r : Refusal) : (refuse r s).faults = s.faults := rfl
@[simp] theorem refuse_refusal (r : Refusal) : (refuse r s).refusal = some r := rfl
@[simp] theorem refuse_inputs (r : Refusal) : (refuse r s).inputs = s.inputs := rfl
@[simp] theorem refuse_reads (r : Refusal) : (refuse r s).reads = s.reads := rfl
@[simp] theorem refuse_delay (r : Refusal) : (refuse r s).delay = s.delay := rfl
@[simp] theorem refuse_draws (r : Refusal) : (refuse r s).draws = s.draws := rfl
@[simp] theorem refuse_disturbed (r : Refusal) : (refuse r s).disturbed = s.disturbed := rfl

@[simp] theorem putFlag_cmd (b : Bool) : (putFlag b s).cmd = s.cmd := rfl
@[simp] theorem putFlag_code (b : Bool) : (putFlag b s).code = s.code := rfl
@[simp] theorem putFlag_flag (b : Bool) : (putFlag b s).flag = b := rfl
@[simp] theorem putFlag_opres (b : Bool) : (putFlag b s).opres = s.opres := rfl
@[simp] theorem putFlag_busyerr (b : Bool) : (putFlag b s).busyerr = s.busyerr := rfl
@[simp] theorem putFlag_busy (b : Bool) : (putFlag b s).busy = s.busy := rfl
@[simp] theorem putFlag_ilen (b : Bool) : (putFlag b s).ilen = s.ilen := rfl
@[simp] theorem putFlag_ipres (b : Bool) : (putFlag b s).ipres = s.ipres := rfl
@[simp] theorem putFlag_win (b : Bool) : (putFlag b s).win = s.win := rfl
@[simp] theorem putFlag_olen (b : Bool) : (putFlag b s).olen = s.olen := rfl
@[simp] theorem putFlag_wout (b : Bool) : (putFlag b s).wout = s.wout := rfl
@[simp] theorem putFlag_tid (b : Bool) : (putFlag b s).tid = s.tid := rfl
@[simp] theorem putFlag_ibuf (b : Bool) : (putFlag b s).ibuf = s.ibuf := rfl
@[simp] theorem putFlag_obuf (b : Bool) : (putFlag b s).obuf = s.obuf := rfl
@[simp] theorem putFlag_faults (b : Bool) : (putFlag b s).faults = s.faults := rfl
@[simp] theorem putFlag_refusal (b : Bool) : (putFlag b s).refusal = s.refusal := rfl
@[simp] theorem putFlag_inputs (b : Bool) : (putFlag b s).inputs = s.inputs := rfl
@[simp] theorem putFlag_reads (b : Bool) : (putFlag b s).reads = s.reads := rfl
@[simp] theorem putFlag_delay (b : Bool) : (putFlag b s).delay = s.delay := rfl
@[simp] theorem putFlag_draws (b : Bool) : (putFlag b s).draws = s.draws := rfl
@[simp] theorem putFlag_disturbed (b : Bool) : (putFlag b s).disturbed = s.disturbed := rfl

@[simp] theorem putBytes_cmd (bs : List Byte) : (putBytes bs s).cmd = s.cmd := rfl
@[simp] theorem putBytes_code (bs : List Byte) : (putBytes bs s).code = s.code := rfl
@[simp] theorem putBytes_flag (bs : List Byte) : (putBytes bs s).flag = s.flag := rfl
@[simp] theorem putBytes_opres (bs : List Byte) : (putBytes bs s).opres = true := rfl
@[simp] theorem putBytes_busyerr (bs : List Byte) : (putBytes bs s).busyerr = s.busyerr := rfl
@[simp] theorem putBytes_busy (bs : List Byte) : (putBytes bs s).busy = s.busy := rfl
@[simp] theorem putBytes_ilen (bs : List Byte) : (putBytes bs s).ilen = s.ilen := rfl
@[simp] theorem putBytes_ipres (bs : List Byte) : (putBytes bs s).ipres = s.ipres := rfl
@[simp] theorem putBytes_win (bs : List Byte) : (putBytes bs s).win = s.win := rfl
@[simp] theorem putBytes_olen (bs : List Byte) : (putBytes bs s).olen = lenWord bs.length := rfl
@[simp] theorem putBytes_wout (bs : List Byte) : (putBytes bs s).wout = s.wout := rfl
@[simp] theorem putBytes_tid (bs : List Byte) : (putBytes bs s).tid = s.tid := rfl
@[simp] theorem putBytes_ibuf (bs : List Byte) : (putBytes bs s).ibuf = s.ibuf := rfl
@[simp] theorem putBytes_obuf (bs : List Byte) : (putBytes bs s).obuf = s.obuf.writeSeq 0 bs := rfl
@[simp] theorem putBytes_faults (bs : List Byte) : (putBytes bs s).faults = s.faults := rfl
@[simp] theorem putBytes_refusal (bs : List Byte) : (putBytes bs s).refusal = s.refusal := rfl
@[simp] theorem putBytes_inputs (bs : List Byte) : (putBytes bs s).inputs = s.inputs := rfl
@[simp] theorem putBytes_reads (bs : List Byte) : (putBytes bs s).reads = s.reads := rfl
@[simp] theorem putBytes_delay (bs : List Byte) : (putBytes bs s).delay = s.delay := rfl
@[simp] theorem putBytes_draws (bs : List Byte) : (putBytes bs s).draws = s.draws := rfl
@[simp] theorem putBytes_disturbed (bs : List Byte) : (putBytes bs s).disturbed = s.disturbed := rfl

@[simp] theorem dropOutput_cmd : (dropOutput s).cmd = s.cmd := rfl
@[simp] theorem dropOutput_code : (dropOutput s).code = s.code := rfl
@[simp] theorem dropOutput_flag : (dropOutput s).flag = s.flag := rfl
@[simp] theorem dropOutput_opres : (dropOutput s).opres = false := rfl
@[simp] theorem dropOutput_busyerr : (dropOutput s).busyerr = s.busyerr := rfl
@[simp] theorem dropOutput_busy : (dropOutput s).busy = s.busy := rfl
@[simp] theorem dropOutput_ilen : (dropOutput s).ilen = s.ilen := rfl
@[simp] theorem dropOutput_ipres : (dropOutput s).ipres = s.ipres := rfl
@[simp] theorem dropOutput_win : (dropOutput s).win = s.win := rfl
@[simp] theorem dropOutput_olen : (dropOutput s).olen = 0x0000#16 := rfl
@[simp] theorem dropOutput_wout : (dropOutput s).wout = s.wout := rfl
@[simp] theorem dropOutput_tid : (dropOutput s).tid = s.tid := rfl
@[simp] theorem dropOutput_ibuf : (dropOutput s).ibuf = s.ibuf := rfl
@[simp] theorem dropOutput_obuf : (dropOutput s).obuf = s.obuf := rfl
@[simp] theorem dropOutput_faults : (dropOutput s).faults = s.faults := rfl
@[simp] theorem dropOutput_refusal : (dropOutput s).refusal = s.refusal := rfl
@[simp] theorem dropOutput_inputs : (dropOutput s).inputs = s.inputs := rfl
@[simp] theorem dropOutput_reads : (dropOutput s).reads = s.reads := rfl
@[simp] theorem dropOutput_delay : (dropOutput s).delay = s.delay := rfl
@[simp] theorem dropOutput_draws : (dropOutput s).draws = s.draws := rfl
@[simp] theorem dropOutput_disturbed : (dropOutput s).disturbed = s.disturbed := rfl

@[simp] theorem forgetObuf_cmd : (forgetObuf s).cmd = s.cmd := rfl
@[simp] theorem forgetObuf_code : (forgetObuf s).code = s.code := rfl
@[simp] theorem forgetObuf_flag : (forgetObuf s).flag = s.flag := rfl
@[simp] theorem forgetObuf_opres : (forgetObuf s).opres = s.opres := rfl
@[simp] theorem forgetObuf_busyerr : (forgetObuf s).busyerr = s.busyerr := rfl
@[simp] theorem forgetObuf_busy : (forgetObuf s).busy = s.busy := rfl
@[simp] theorem forgetObuf_ilen : (forgetObuf s).ilen = s.ilen := rfl
@[simp] theorem forgetObuf_ipres : (forgetObuf s).ipres = s.ipres := rfl
@[simp] theorem forgetObuf_win : (forgetObuf s).win = s.win := rfl
@[simp] theorem forgetObuf_olen : (forgetObuf s).olen = s.olen := rfl
@[simp] theorem forgetObuf_wout : (forgetObuf s).wout = s.wout := rfl
@[simp] theorem forgetObuf_tid : (forgetObuf s).tid = s.tid := rfl
@[simp] theorem forgetObuf_ibuf : (forgetObuf s).ibuf = s.ibuf := rfl
@[simp] theorem forgetObuf_obuf : (forgetObuf s).obuf = [] := rfl
@[simp] theorem forgetObuf_faults : (forgetObuf s).faults = s.faults := rfl
@[simp] theorem forgetObuf_refusal : (forgetObuf s).refusal = s.refusal := rfl
@[simp] theorem forgetObuf_inputs : (forgetObuf s).inputs = s.inputs := rfl
@[simp] theorem forgetObuf_reads : (forgetObuf s).reads = s.reads := rfl
@[simp] theorem forgetObuf_delay : (forgetObuf s).delay = s.delay := rfl
@[simp] theorem forgetObuf_draws : (forgetObuf s).draws = s.draws := rfl
@[simp] theorem forgetObuf_disturbed : (forgetObuf s).disturbed = s.disturbed := rfl

@[simp] theorem putWord_cmd (w : Word) : (putWord w s).cmd = s.cmd := rfl
@[simp] theorem putWord_code (w : Word) : (putWord w s).code = s.code := rfl
@[simp] theorem putWord_flag (w : Word) : (putWord w s).flag = s.flag := rfl
@[simp] theorem putWord_opres (w : Word) : (putWord w s).opres = s.opres := rfl
@[simp] theorem putWord_busyerr (w : Word) : (putWord w s).busyerr = s.busyerr := rfl
@[simp] theorem putWord_busy (w : Word) : (putWord w s).busy = s.busy := rfl
@[simp] theorem putWord_ilen (w : Word) : (putWord w s).ilen = s.ilen := rfl
@[simp] theorem putWord_ipres (w : Word) : (putWord w s).ipres = s.ipres := rfl
@[simp] theorem putWord_win (w : Word) : (putWord w s).win = s.win := rfl
@[simp] theorem putWord_olen (w : Word) : (putWord w s).olen = s.olen := rfl
@[simp] theorem putWord_wout (w : Word) : (putWord w s).wout = w := rfl
@[simp] theorem putWord_tid (w : Word) : (putWord w s).tid = s.tid := rfl
@[simp] theorem putWord_ibuf (w : Word) : (putWord w s).ibuf = s.ibuf := rfl
@[simp] theorem putWord_obuf (w : Word) : (putWord w s).obuf = s.obuf := rfl
@[simp] theorem putWord_faults (w : Word) : (putWord w s).faults = s.faults := rfl
@[simp] theorem putWord_refusal (w : Word) : (putWord w s).refusal = s.refusal := rfl
@[simp] theorem putWord_inputs (w : Word) : (putWord w s).inputs = s.inputs := rfl
@[simp] theorem putWord_reads (w : Word) : (putWord w s).reads = s.reads := rfl
@[simp] theorem putWord_delay (w : Word) : (putWord w s).delay = s.delay := rfl
@[simp] theorem putWord_draws (w : Word) : (putWord w s).draws = s.draws := rfl
@[simp] theorem putWord_disturbed (w : Word) : (putWord w s).disturbed = s.disturbed := rfl

@[simp] theorem advanceTid_cmd : (advanceTid s).cmd = s.cmd := rfl
@[simp] theorem advanceTid_code : (advanceTid s).code = s.code := rfl
@[simp] theorem advanceTid_flag : (advanceTid s).flag = s.flag := rfl
@[simp] theorem advanceTid_opres : (advanceTid s).opres = s.opres := rfl
@[simp] theorem advanceTid_busyerr : (advanceTid s).busyerr = s.busyerr := rfl
@[simp] theorem advanceTid_busy : (advanceTid s).busy = s.busy := rfl
@[simp] theorem advanceTid_ilen : (advanceTid s).ilen = s.ilen := rfl
@[simp] theorem advanceTid_ipres : (advanceTid s).ipres = s.ipres := rfl
@[simp] theorem advanceTid_win : (advanceTid s).win = s.win := rfl
@[simp] theorem advanceTid_olen : (advanceTid s).olen = s.olen := rfl
@[simp] theorem advanceTid_wout : (advanceTid s).wout = s.wout := rfl
@[simp] theorem advanceTid_tid : (advanceTid s).tid = s.tid + 1#16 := rfl
@[simp] theorem advanceTid_ibuf : (advanceTid s).ibuf = s.ibuf := rfl
@[simp] theorem advanceTid_obuf : (advanceTid s).obuf = s.obuf := rfl
@[simp] theorem advanceTid_faults : (advanceTid s).faults = s.faults := rfl
@[simp] theorem advanceTid_refusal : (advanceTid s).refusal = s.refusal := rfl
@[simp] theorem advanceTid_inputs : (advanceTid s).inputs = s.inputs := rfl
@[simp] theorem advanceTid_reads : (advanceTid s).reads = s.reads := rfl
@[simp] theorem advanceTid_delay : (advanceTid s).delay = s.delay := rfl
@[simp] theorem advanceTid_draws : (advanceTid s).draws = s.draws := rfl
@[simp] theorem advanceTid_disturbed : (advanceTid s).disturbed = s.disturbed := rfl

@[simp] theorem complete_cmd (c : Code) : (complete c s).cmd = s.cmd := rfl
@[simp] theorem complete_code (c : Code) : (complete c s).code = codeBits c := rfl
@[simp] theorem complete_flag (c : Code) : (complete c s).flag = s.flag := rfl
@[simp] theorem complete_opres (c : Code) : (complete c s).opres = s.opres := rfl
@[simp] theorem complete_busyerr (c : Code) : (complete c s).busyerr = s.busyerr := rfl
@[simp] theorem complete_busy (c : Code) : (complete c s).busy = false := rfl
@[simp] theorem complete_ilen (c : Code) : (complete c s).ilen = s.ilen := rfl
@[simp] theorem complete_ipres (c : Code) : (complete c s).ipres = s.ipres := rfl
@[simp] theorem complete_win (c : Code) : (complete c s).win = s.win := rfl
@[simp] theorem complete_olen (c : Code) : (complete c s).olen = s.olen := rfl
@[simp] theorem complete_wout (c : Code) : (complete c s).wout = s.wout := rfl
@[simp] theorem complete_tid (c : Code) : (complete c s).tid = s.tid := rfl
@[simp] theorem complete_ibuf (c : Code) : (complete c s).ibuf = s.ibuf := rfl
@[simp] theorem complete_obuf (c : Code) : (complete c s).obuf = s.obuf := rfl
@[simp] theorem complete_faults (c : Code) : (complete c s).faults = s.faults := rfl
@[simp] theorem complete_refusal (c : Code) : (complete c s).refusal = s.refusal := rfl
@[simp] theorem complete_inputs (c : Code) : (complete c s).inputs = s.inputs := rfl
@[simp] theorem complete_reads (c : Code) : (complete c s).reads = s.reads := rfl
@[simp] theorem complete_delay (c : Code) : (complete c s).delay = s.delay := rfl
@[simp] theorem complete_draws (c : Code) : (complete c s).draws = s.draws + 1 := rfl
@[simp] theorem complete_disturbed (c : Code) : (complete c s).disturbed = s.disturbed := rfl

@[simp] theorem acceptCommand_cmd (op : Byte) : (acceptCommand op s).cmd = op := rfl
@[simp] theorem acceptCommand_code (op : Byte) : (acceptCommand op s).code = s.code := rfl
@[simp] theorem acceptCommand_flag (op : Byte) : (acceptCommand op s).flag = s.flag := rfl
@[simp] theorem acceptCommand_opres (op : Byte) : (acceptCommand op s).opres = s.opres := rfl
@[simp] theorem acceptCommand_busyerr (op : Byte) : (acceptCommand op s).busyerr = false := rfl
@[simp] theorem acceptCommand_busy (op : Byte) : (acceptCommand op s).busy = true := rfl
@[simp] theorem acceptCommand_ilen (op : Byte) : (acceptCommand op s).ilen = s.ilen := rfl
@[simp] theorem acceptCommand_ipres (op : Byte) : (acceptCommand op s).ipres = s.ipres := rfl
@[simp] theorem acceptCommand_win (op : Byte) : (acceptCommand op s).win = s.win := rfl
@[simp] theorem acceptCommand_olen (op : Byte) : (acceptCommand op s).olen = s.olen := rfl
@[simp] theorem acceptCommand_wout (op : Byte) : (acceptCommand op s).wout = s.wout := rfl
@[simp] theorem acceptCommand_tid (op : Byte) : (acceptCommand op s).tid = s.tid := rfl
@[simp] theorem acceptCommand_ibuf (op : Byte) : (acceptCommand op s).ibuf = s.ibuf := rfl
@[simp] theorem acceptCommand_obuf (op : Byte) : (acceptCommand op s).obuf = s.obuf := rfl
@[simp] theorem acceptCommand_faults (op : Byte) : (acceptCommand op s).faults = s.faults := rfl
@[simp] theorem acceptCommand_refusal (op : Byte) : (acceptCommand op s).refusal = s.refusal := rfl
@[simp] theorem acceptCommand_inputs (op : Byte) : (acceptCommand op s).inputs = s.inputs := rfl
@[simp] theorem acceptCommand_reads (op : Byte) : (acceptCommand op s).reads = s.reads := rfl
@[simp] theorem acceptCommand_delay (op : Byte) : (acceptCommand op s).delay = Config.engineDelay s.draws := rfl
@[simp] theorem acceptCommand_draws (op : Byte) : (acceptCommand op s).draws = s.draws + 1 := rfl
@[simp] theorem acceptCommand_disturbed (op : Byte) : (acceptCommand op s).disturbed = [] := rfl

@[simp] theorem rejectCommand_cmd : (rejectCommand s).cmd = s.cmd := rfl
@[simp] theorem rejectCommand_code : (rejectCommand s).code = s.code := rfl
@[simp] theorem rejectCommand_flag : (rejectCommand s).flag = s.flag := rfl
@[simp] theorem rejectCommand_opres : (rejectCommand s).opres = s.opres := rfl
@[simp] theorem rejectCommand_busyerr : (rejectCommand s).busyerr = true := rfl
@[simp] theorem rejectCommand_busy : (rejectCommand s).busy = s.busy := rfl
@[simp] theorem rejectCommand_ilen : (rejectCommand s).ilen = s.ilen := rfl
@[simp] theorem rejectCommand_ipres : (rejectCommand s).ipres = s.ipres := rfl
@[simp] theorem rejectCommand_win : (rejectCommand s).win = s.win := rfl
@[simp] theorem rejectCommand_olen : (rejectCommand s).olen = s.olen := rfl
@[simp] theorem rejectCommand_wout : (rejectCommand s).wout = s.wout := rfl
@[simp] theorem rejectCommand_tid : (rejectCommand s).tid = s.tid := rfl
@[simp] theorem rejectCommand_ibuf : (rejectCommand s).ibuf = s.ibuf := rfl
@[simp] theorem rejectCommand_obuf : (rejectCommand s).obuf = s.obuf := rfl
@[simp] theorem rejectCommand_faults : (rejectCommand s).faults = s.faults := rfl
@[simp] theorem rejectCommand_refusal : (rejectCommand s).refusal = s.refusal := rfl
@[simp] theorem rejectCommand_inputs : (rejectCommand s).inputs = s.inputs := rfl
@[simp] theorem rejectCommand_reads : (rejectCommand s).reads = s.reads := rfl
@[simp] theorem rejectCommand_delay : (rejectCommand s).delay = s.delay := rfl
@[simp] theorem rejectCommand_draws : (rejectCommand s).draws = s.draws := rfl
@[simp] theorem rejectCommand_disturbed : (rejectCommand s).disturbed = s.disturbed := rfl

@[simp] theorem noteUnwritten_cmd (n : Nat) : (noteUnwritten n s).cmd = s.cmd := rfl
@[simp] theorem noteUnwritten_code (n : Nat) : (noteUnwritten n s).code = s.code := rfl
@[simp] theorem noteUnwritten_flag (n : Nat) : (noteUnwritten n s).flag = s.flag := rfl
@[simp] theorem noteUnwritten_opres (n : Nat) : (noteUnwritten n s).opres = s.opres := rfl
@[simp] theorem noteUnwritten_busyerr (n : Nat) : (noteUnwritten n s).busyerr = s.busyerr := rfl
@[simp] theorem noteUnwritten_busy (n : Nat) : (noteUnwritten n s).busy = s.busy := rfl
@[simp] theorem noteUnwritten_ilen (n : Nat) : (noteUnwritten n s).ilen = s.ilen := rfl
@[simp] theorem noteUnwritten_ipres (n : Nat) : (noteUnwritten n s).ipres = s.ipres := rfl
@[simp] theorem noteUnwritten_win (n : Nat) : (noteUnwritten n s).win = s.win := rfl
@[simp] theorem noteUnwritten_olen (n : Nat) : (noteUnwritten n s).olen = s.olen := rfl
@[simp] theorem noteUnwritten_wout (n : Nat) : (noteUnwritten n s).wout = s.wout := rfl
@[simp] theorem noteUnwritten_tid (n : Nat) : (noteUnwritten n s).tid = s.tid := rfl
@[simp] theorem noteUnwritten_ibuf (n : Nat) : (noteUnwritten n s).ibuf = s.ibuf := rfl
@[simp] theorem noteUnwritten_obuf (n : Nat) : (noteUnwritten n s).obuf = s.obuf := rfl
@[simp] theorem noteUnwritten_faults (n : Nat) : (noteUnwritten n s).faults = s.faults ++ unwrittenFaults n s := rfl
@[simp] theorem noteUnwritten_refusal (n : Nat) : (noteUnwritten n s).refusal = s.refusal := rfl
@[simp] theorem noteUnwritten_inputs (n : Nat) : (noteUnwritten n s).inputs = s.inputs := rfl
@[simp] theorem noteUnwritten_reads (n : Nat) : (noteUnwritten n s).reads = s.reads := rfl
@[simp] theorem noteUnwritten_delay (n : Nat) : (noteUnwritten n s).delay = s.delay := rfl
@[simp] theorem noteUnwritten_draws (n : Nat) : (noteUnwritten n s).draws = s.draws := rfl
@[simp] theorem noteUnwritten_disturbed (n : Nat) : (noteUnwritten n s).disturbed = s.disturbed := rfl

@[simp] theorem pushInputs_cmd (ops : List Input) : (pushInputs ops s).cmd = s.cmd := rfl
@[simp] theorem pushInputs_code (ops : List Input) : (pushInputs ops s).code = s.code := rfl
@[simp] theorem pushInputs_flag (ops : List Input) : (pushInputs ops s).flag = s.flag := rfl
@[simp] theorem pushInputs_opres (ops : List Input) : (pushInputs ops s).opres = s.opres := rfl
@[simp] theorem pushInputs_busyerr (ops : List Input) : (pushInputs ops s).busyerr = s.busyerr := rfl
@[simp] theorem pushInputs_busy (ops : List Input) : (pushInputs ops s).busy = s.busy := rfl
@[simp] theorem pushInputs_ilen (ops : List Input) : (pushInputs ops s).ilen = s.ilen := rfl
@[simp] theorem pushInputs_ipres (ops : List Input) : (pushInputs ops s).ipres = s.ipres := rfl
@[simp] theorem pushInputs_win (ops : List Input) : (pushInputs ops s).win = s.win := rfl
@[simp] theorem pushInputs_olen (ops : List Input) : (pushInputs ops s).olen = s.olen := rfl
@[simp] theorem pushInputs_wout (ops : List Input) : (pushInputs ops s).wout = s.wout := rfl
@[simp] theorem pushInputs_tid (ops : List Input) : (pushInputs ops s).tid = s.tid := rfl
@[simp] theorem pushInputs_ibuf (ops : List Input) : (pushInputs ops s).ibuf = s.ibuf := rfl
@[simp] theorem pushInputs_obuf (ops : List Input) : (pushInputs ops s).obuf = s.obuf := rfl
@[simp] theorem pushInputs_faults (ops : List Input) : (pushInputs ops s).faults = s.faults := rfl
@[simp] theorem pushInputs_refusal (ops : List Input) : (pushInputs ops s).refusal = s.refusal := rfl
@[simp] theorem pushInputs_inputs (ops : List Input) : (pushInputs ops s).inputs = ops ++ s.inputs := rfl
@[simp] theorem pushInputs_reads (ops : List Input) : (pushInputs ops s).reads = s.reads := rfl
@[simp] theorem pushInputs_delay (ops : List Input) : (pushInputs ops s).delay = s.delay := rfl
@[simp] theorem pushInputs_draws (ops : List Input) : (pushInputs ops s).draws = s.draws := rfl
@[simp] theorem pushInputs_disturbed (ops : List Input) : (pushInputs ops s).disturbed = s.disturbed := rfl

@[simp] theorem placeCommand_cmd (w : Nat) : (placeCommand w s).cmd = BitVec.ofNat 8 w := rfl
@[simp] theorem placeCommand_code (w : Nat) : (placeCommand w s).code = s.code := rfl
@[simp] theorem placeCommand_flag (w : Nat) : (placeCommand w s).flag = s.flag := rfl
@[simp] theorem placeCommand_opres (w : Nat) : (placeCommand w s).opres = s.opres := rfl
@[simp] theorem placeCommand_busyerr (w : Nat) : (placeCommand w s).busyerr = s.busyerr := rfl
@[simp] theorem placeCommand_busy (w : Nat) : (placeCommand w s).busy = true := rfl
@[simp] theorem placeCommand_ilen (w : Nat) : (placeCommand w s).ilen = s.ilen := rfl
@[simp] theorem placeCommand_ipres (w : Nat) : (placeCommand w s).ipres = s.ipres := rfl
@[simp] theorem placeCommand_win (w : Nat) : (placeCommand w s).win = s.win := rfl
@[simp] theorem placeCommand_olen (w : Nat) : (placeCommand w s).olen = s.olen := rfl
@[simp] theorem placeCommand_wout (w : Nat) : (placeCommand w s).wout = s.wout := rfl
@[simp] theorem placeCommand_tid (w : Nat) : (placeCommand w s).tid = s.tid := rfl
@[simp] theorem placeCommand_ibuf (w : Nat) : (placeCommand w s).ibuf = s.ibuf := rfl
@[simp] theorem placeCommand_obuf (w : Nat) : (placeCommand w s).obuf = s.obuf := rfl
@[simp] theorem placeCommand_faults (w : Nat) : (placeCommand w s).faults = s.faults := rfl
@[simp] theorem placeCommand_refusal (w : Nat) : (placeCommand w s).refusal = none := rfl
@[simp] theorem placeCommand_inputs (w : Nat) : (placeCommand w s).inputs = s.inputs := rfl
@[simp] theorem placeCommand_reads (w : Nat) : (placeCommand w s).reads = s.reads := rfl
@[simp] theorem placeCommand_delay (w : Nat) : (placeCommand w s).delay = 0 := rfl
@[simp] theorem placeCommand_draws (w : Nat) : (placeCommand w s).draws = s.draws := rfl
@[simp] theorem placeCommand_disturbed (w : Nat) : (placeCommand w s).disturbed = s.disturbed := rfl

@[simp] theorem resetBlock_cmd : (resetBlock s).cmd = 0x00#8 := rfl
@[simp] theorem resetBlock_code : (resetBlock s).code = 0x0#4 := rfl
@[simp] theorem resetBlock_flag : (resetBlock s).flag = false := rfl
@[simp] theorem resetBlock_opres : (resetBlock s).opres = false := rfl
@[simp] theorem resetBlock_busyerr : (resetBlock s).busyerr = false := rfl
@[simp] theorem resetBlock_busy : (resetBlock s).busy = false := rfl
@[simp] theorem resetBlock_ilen : (resetBlock s).ilen = 0x0000#16 := rfl
@[simp] theorem resetBlock_ipres : (resetBlock s).ipres = false := rfl
@[simp] theorem resetBlock_win : (resetBlock s).win = 0x0000#16 := rfl
@[simp] theorem resetBlock_olen : (resetBlock s).olen = 0x0000#16 := rfl
@[simp] theorem resetBlock_wout : (resetBlock s).wout = 0x0000#16 := rfl
@[simp] theorem resetBlock_tid : (resetBlock s).tid = 0x0000#16 := rfl
@[simp] theorem resetBlock_ibuf : (resetBlock s).ibuf = [] := rfl
@[simp] theorem resetBlock_obuf : (resetBlock s).obuf = [] := rfl
@[simp] theorem resetBlock_faults : (resetBlock s).faults = s.faults := rfl
@[simp] theorem resetBlock_refusal : (resetBlock s).refusal = s.refusal := rfl
@[simp] theorem resetBlock_inputs : (resetBlock s).inputs = s.inputs := rfl
@[simp] theorem resetBlock_reads : (resetBlock s).reads = s.reads := rfl
@[simp] theorem resetBlock_delay : (resetBlock s).delay = 0 := rfl
@[simp] theorem resetBlock_draws : (resetBlock s).draws = s.draws + 1 := rfl
@[simp] theorem resetBlock_disturbed : (resetBlock s).disturbed = [] := rfl

@[simp] theorem noteOperandWrite_cmd (a : HostAccess) (o : Operand) :
    (noteOperandWrite a o s).cmd = s.cmd := by unfold noteOperandWrite; split <;> rfl
@[simp] theorem noteOperandWrite_code (a : HostAccess) (o : Operand) :
    (noteOperandWrite a o s).code = s.code := by unfold noteOperandWrite; split <;> rfl
@[simp] theorem noteOperandWrite_flag (a : HostAccess) (o : Operand) :
    (noteOperandWrite a o s).flag = s.flag := by unfold noteOperandWrite; split <;> rfl
@[simp] theorem noteOperandWrite_opres (a : HostAccess) (o : Operand) :
    (noteOperandWrite a o s).opres = s.opres := by unfold noteOperandWrite; split <;> rfl
@[simp] theorem noteOperandWrite_busyerr (a : HostAccess) (o : Operand) :
    (noteOperandWrite a o s).busyerr = s.busyerr := by unfold noteOperandWrite; split <;> rfl
@[simp] theorem noteOperandWrite_busy (a : HostAccess) (o : Operand) :
    (noteOperandWrite a o s).busy = s.busy := by unfold noteOperandWrite; split <;> rfl
@[simp] theorem noteOperandWrite_ilen (a : HostAccess) (o : Operand) :
    (noteOperandWrite a o s).ilen = s.ilen := by unfold noteOperandWrite; split <;> rfl
@[simp] theorem noteOperandWrite_ipres (a : HostAccess) (o : Operand) :
    (noteOperandWrite a o s).ipres = s.ipres := by unfold noteOperandWrite; split <;> rfl
@[simp] theorem noteOperandWrite_win (a : HostAccess) (o : Operand) :
    (noteOperandWrite a o s).win = s.win := by unfold noteOperandWrite; split <;> rfl
@[simp] theorem noteOperandWrite_olen (a : HostAccess) (o : Operand) :
    (noteOperandWrite a o s).olen = s.olen := by unfold noteOperandWrite; split <;> rfl
@[simp] theorem noteOperandWrite_wout (a : HostAccess) (o : Operand) :
    (noteOperandWrite a o s).wout = s.wout := by unfold noteOperandWrite; split <;> rfl
@[simp] theorem noteOperandWrite_tid (a : HostAccess) (o : Operand) :
    (noteOperandWrite a o s).tid = s.tid := by unfold noteOperandWrite; split <;> rfl
@[simp] theorem noteOperandWrite_ibuf (a : HostAccess) (o : Operand) :
    (noteOperandWrite a o s).ibuf = s.ibuf := by unfold noteOperandWrite; split <;> rfl
@[simp] theorem noteOperandWrite_obuf (a : HostAccess) (o : Operand) :
    (noteOperandWrite a o s).obuf = s.obuf := by unfold noteOperandWrite; split <;> rfl
@[simp] theorem noteOperandWrite_faults (a : HostAccess) (o : Operand) :
    (noteOperandWrite a o s).faults = if s.busy then s.faults ++ [.operandWriteWhileBusy a] else s.faults := by unfold noteOperandWrite; split <;> rfl
@[simp] theorem noteOperandWrite_refusal (a : HostAccess) (o : Operand) :
    (noteOperandWrite a o s).refusal = s.refusal := by unfold noteOperandWrite; split <;> rfl
@[simp] theorem noteOperandWrite_inputs (a : HostAccess) (o : Operand) :
    (noteOperandWrite a o s).inputs = s.inputs := by unfold noteOperandWrite; split <;> rfl
@[simp] theorem noteOperandWrite_reads (a : HostAccess) (o : Operand) :
    (noteOperandWrite a o s).reads = s.reads := by unfold noteOperandWrite; split <;> rfl
@[simp] theorem noteOperandWrite_delay (a : HostAccess) (o : Operand) :
    (noteOperandWrite a o s).delay = s.delay := by unfold noteOperandWrite; split <;> rfl
@[simp] theorem noteOperandWrite_draws (a : HostAccess) (o : Operand) :
    (noteOperandWrite a o s).draws = s.draws + 1 := by unfold noteOperandWrite; split <;> rfl
@[simp] theorem noteOperandWrite_disturbed (a : HostAccess) (o : Operand) :
    (noteOperandWrite a o s).disturbed = if s.busy then o :: s.disturbed else s.disturbed := by unfold noteOperandWrite; split <;> rfl

end Sys2Proof.Machine
end

