-- ==== Sys2Proof/Laws/Ops.lean ====
section
/-! SUPPORT. What the shared operations can do, said once each: operand assembly, RequireInput, the length register,
and a host access. -/

namespace Sys2Proof.Machine

/-- MAXLEN's bounds (00_scope R6). -/
theorem maxLen_bounds : 768 ≤ Config.maxLen ∧ Config.maxLen ≤ 65535 := by
  have := Config.maxLenSlack.isLt; unfold Config.maxLen; omega

theorem oMaxLen_eq : Config.oMaxLen = 3 * Config.maxLen := rfl

@[simp] theorem withinMaxLen_iff (n : Nat) : withinMaxLen n = true ↔ n ≤ Config.maxLen := by
  have := maxLen_bounds; simp only [withinMaxLen, Bool.or_eq_true, decide_eq_true_eq]; omega

@[simp] theorem insideIbuf_iff (i : Nat) : insideIbuf i = true ↔ i < Config.maxLen := by
  have := maxLen_bounds; simp only [insideIbuf, Bool.or_eq_true, decide_eq_true_eq]; omega

@[simp] theorem insideObuf_iff (i : Nat) : insideObuf i = true ↔ i < Config.oMaxLen := by
  have := maxLen_bounds
  have := oMaxLen_eq
  simp only [insideObuf, Bool.or_eq_true, decide_eq_true_eq]; omega

/-- OLEN is the output's length wherever that fits in 16 bits (log 10 says what it is where it does not). -/
theorem lenWord_toNat {n : Nat} (h : n < 65536) : (lenWord n).toNat = n := by
  rw [lenWord, if_pos h, BitVec.toNat_ofNat]; exact Nat.mod_eq_of_lt h

/-- OLEN never exceeds the output's length, whatever the free value is. -/
theorem lenWord_le (n : Nat) : (lenWord n).toNat ≤ n := by
  by_cases h : n < 65536
  · rw [lenWord_toNat h]
  · have := (lenWord n).isLt; omega

theorem operandLen_lt (s : State) : operandLen s < 65536 := by
  unfold operandLen; split <;> exact BitVec.isLt _

/-- With no operand written under the command, it sees the registers. -/
theorem operandLen_stable {s : State} (h : s.OperandsStable) : operandLen s = s.ilen.toNat := by
  unfold operandLen; rw [show s.disturbed = [] from h]; rfl

theorem operandPresent_stable {s : State} (h : s.OperandsStable) : operandPresent s = s.ipres := by
  unfold operandPresent; rw [show s.disturbed = [] from h]; rfl

theorem operandWord_stable {s : State} (h : s.OperandsStable) : operandWord s = s.win := by
  unfold operandWord; rw [show s.disturbed = [] from h]; rfl

theorem operandByte_stable {s : State} {i : Nat} {b : Byte} (h : s.OperandsStable) (hb : s.ibuf.read i = some b) :
    operandByte s i = b := by
  unfold operandByte; rw [show s.disturbed = [] from h, hb]; rfl

@[simp] theorem operandBytes_length (n : Nat) (s : State) : (operandBytes n s).length = n := by
  simp [operandBytes]

theorem operandBytes_getElem? (n i : Nat) (s : State) (h : i < n) :
    (operandBytes n s)[i]? = some (operandByte s i) := by
  simp [operandBytes, h]

/-- The faults of an engine read are exactly those of the unwritten bytes it reads. -/
theorem mem_unwrittenFaults (n : Nat) (s : State) (f : Fault) :
    f ∈ unwrittenFaults n s ↔ ∃ i, i < n ∧ s.ibuf.read i = none ∧ f = .unwrittenInput s.cmd i := by
  simp only [unwrittenFaults, List.mem_map, List.mem_filter, List.mem_range, Option.isNone_iff_eq_none]
  constructor
  · rintro ⟨i, ⟨h1, h2⟩, rfl⟩; exact ⟨i, h1, h2, rfl⟩
  · rintro ⟨i, h1, h2, rfl⟩; exact ⟨i, ⟨h1, h2⟩, rfl⟩

/-- A command that reads written bytes only records no fault. -/
theorem unwrittenFaults_written {n : Nat} {s : State} (h : s.InputWritten n) : unwrittenFaults n s = [] := by
  rw [List.eq_nil_iff_forall_not_mem]
  intro f hf
  obtain ⟨i, h1, h2, _⟩ := (mem_unwrittenFaults n s f).mp hf
  have := h i h1
  rw [h2] at this
  exact absurd this (by simp)

/-- RequireInput has two cases: ILEN too large, or the command goes on with it. -/
theorem requireInput_cases (s : State) (go : Nat → State) :
    (Config.maxLen < operandLen s ∧ requireInput s go = complete .illegal s) ∨
    (operandLen s ≤ Config.maxLen ∧ requireInput s go = go (operandLen s)) := by
  unfold requireInput
  split
  · exact .inr ⟨(withinMaxLen_iff _).mp ‹_›, rfl⟩
  · refine .inl ⟨?_, rfl⟩
    have := mt (withinMaxLen_iff (operandLen s)).mpr ‹_›
    omega

/-- A host access either marks the run as refused and does nothing else, or is one of the five primitives. -/
theorem perform_cases (a : HostAccess) (s : State) :
    (∃ r, accessRefusal a = some r ∧ perform a s = (none, refuse r s)) ∨
    (accessRefusal a = none ∧
      ((∃ n v, a = .regWrite n v ∧ perform a s = (none, writeRegister n v s)) ∨
       (∃ n, a = .regRead n ∧ perform a s = logRead a (readRegister n s, s)) ∨
       (∃ i b, a = .ibufWrite i b ∧ perform a s = (none, writeIbuf i b s)) ∨
       (∃ i, a = .ibufRead i ∧ perform a s = logRead a (readIbuf i s)) ∨
       ∃ i, a = .obufRead i ∧ perform a s = logRead a (readObuf i s, s))) := by
  unfold perform
  cases h : accessRefusal a with
  | some r => exact .inl ⟨r, rfl, rfl⟩
  | none => cases a <;> simp

/-- An IBUF read returns a byte and at most records a fault. -/
theorem readIbuf_state (i : Nat) (s : State) :
    (readIbuf i s).2 = s ∨ (s.ibuf.read i = none ∧ (readIbuf i s).2 = recordFaults [.unwrittenRead i] s) := by
  unfold readIbuf; split <;> simp_all

/-- What a register write does: issue a command, write one operand register, or nothing. -/
theorem writeRegister_cases (n v : Nat) (s : State) :
    (n = 0 ∧ s.busy = true ∧ writeRegister n v s = rejectCommand s) ∨
    (n = 0 ∧ s.busy = false ∧ writeRegister n v s = acceptCommand (BitVec.ofNat 8 v) s) ∨
    (n = 2 ∧ writeRegister n v s = { noteOperandWrite (.regWrite n v) .ilen s with ilen := BitVec.ofNat 16 v }) ∨
    (n = 3 ∧ writeRegister n v s = { noteOperandWrite (.regWrite n v) .ipres s with ipres := v == 1 }) ∨
    (n = 4 ∧ writeRegister n v s = { noteOperandWrite (.regWrite n v) .win s with win := BitVec.ofNat 16 v }) ∨
    (n ≠ 0 ∧ n ≠ 2 ∧ n ≠ 3 ∧ n ≠ 4 ∧ writeRegister n v s = s) := by
  unfold writeRegister
  split
  · cases h : s.busy <;> simp
  all_goals simp_all

end Sys2Proof.Machine
end

