-- ==== Sys2Proof/Laws/HostPort.lean ====
section
/-! SUPPORT. What the host port can do, said once: a host access (perform_effect) and the taking of an input
(runInput_effect, hostStep_effect). Proofs about step cite these and unfold neither. -/

namespace Sys2Proof.Machine

/-- What a host access leaves, by its kind: a read changes the host's log, and at most records one fault; a write does
what writeRegister or writeIbuf does. -/
inductive PerformEffect (a : HostAccess) (s : State) : State → Prop where
  /-- The run is marked as refused, and nothing else changes. -/
  | refused (r : Refusal) (h : accessRefusal a = some r) : PerformEffect a s (refuse r s)
  /-- A read of a register, an OBUF byte or a written IBUF byte. -/
  | exact (v : Nat) (h : accessRefusal a = none) (hr : (∃ n, a = .regRead n) ∨ (∃ i, a = .obufRead i) ∨
      ∃ i b, a = .ibufRead i ∧ s.ibuf.read i = some b) : PerformEffect a s { s with reads := (a, v) :: s.reads }
  /-- A read of an IBUF byte never written. -/
  | unwritten (v i : Nat) (h : accessRefusal a = none) (ha : a = .ibufRead i) (hi : s.ibuf.read i = none) :
      PerformEffect a s { s with reads := (a, v) :: s.reads, faults := s.faults ++ [.unwrittenRead i] }
  | rejected (op : Nat) (h : accessRefusal a = none) (ha : a = .regWrite 0 op) (hb : s.busy = true) :
      PerformEffect a s (rejectCommand s)
  | accepted (op : Nat) (h : accessRefusal a = none) (ha : a = .regWrite 0 op) (hb : s.busy = false) :
      PerformEffect a s (acceptCommand (BitVec.ofNat 8 op) s)
  | ilen (v : Nat) (h : accessRefusal a = none) (ha : a = .regWrite 2 v) :
      PerformEffect a s { noteOperandWrite a .ilen s with ilen := BitVec.ofNat 16 v }
  | ipres (v : Nat) (h : accessRefusal a = none) (ha : a = .regWrite 3 v) :
      PerformEffect a s { noteOperandWrite a .ipres s with ipres := v == 1 }
  | win (v : Nat) (h : accessRefusal a = none) (ha : a = .regWrite 4 v) :
      PerformEffect a s { noteOperandWrite a .win s with win := BitVec.ofNat 16 v }
  /-- A write to a read-only register. -/
  | ignored (n v : Nat) (h : accessRefusal a = none) (ha : a = .regWrite n v)
      (hn : n ≠ 0 ∧ n ≠ 2 ∧ n ≠ 3 ∧ n ≠ 4) : PerformEffect a s s
  | ibuf (i b : Nat) (h : accessRefusal a = none) (ha : a = .ibufWrite i b) :
      PerformEffect a s
        { noteOperandWrite a (.ibuf i) s with ibuf := s.ibuf.write i (BitVec.ofNat 8 b) }

theorem perform_effect (a : HostAccess) (s : State) : PerformEffect a s (perform a s).2 := by
  obtain ⟨r, hr, hp⟩ | ⟨hr, ⟨n, v, rfl, hp⟩ | ⟨n, rfl, hp⟩ | ⟨i, b, rfl, hp⟩ | ⟨i, rfl, hp⟩ | ⟨i, rfl, hp⟩⟩ :=
    perform_cases a s <;> rw [hp]
  · exact .refused r hr
  · obtain ⟨rfl, hb, h⟩ | ⟨rfl, hb, h⟩ | ⟨rfl, h⟩ | ⟨rfl, h⟩ | ⟨rfl, h⟩ | ⟨h0, h2, h3, h4, h⟩ :=
      writeRegister_cases n v s <;> simp only [h]
    · exact .rejected v hr rfl hb
    · exact .accepted v hr rfl hb
    · exact .ilen v hr rfl
    · exact .ipres v hr rfl
    · exact .win v hr rfl
    · exact .ignored n v hr rfl ⟨h0, h2, h3, h4⟩
  · exact .exact _ hr (.inl ⟨n, rfl⟩)
  · exact .ibuf i b hr rfl
  · unfold logRead readIbuf
    split
    · exact .exact _ hr (.inr (.inr ⟨i, _, rfl, ‹_›⟩))
    · exact .unwritten _ i hr rfl ‹_›
  · exact .exact _ hr (.inr (.inl ⟨i, rfl⟩))

/-- A host access leaves the pending inputs. -/
theorem perform_inputs (a : HostAccess) (s : State) : (perform a s).2.inputs = s.inputs := by
  have h := perform_effect a s
  generalize (perform a s).2 = t at h
  cases h <;> simp

/-- After the read of a loop, some inputs come first. -/
theorem andThen_eq (r : Option Nat × State) (next : Nat → List Input) :
    ∃ ops, andThen r next = pushInputs ops r.2 := by
  unfold andThen
  split
  · exact ⟨_, rfl⟩
  · exact ⟨[], rfl⟩

/-- Taking an input is a reset, or exactly one host access, with some inputs put first. -/
theorem runInput_effect (op : Input) (s : State) :
    (op = .reset ∧ runInput op s = resetBlock s) ∨
    ∃ a ops, nextAccess op = some a ∧ runInput op s = pushInputs ops (perform a s).2 := by
  cases op with
  | access a => exact .inr ⟨a, [], rfl, rfl⟩
  | poll =>
    obtain ⟨ops, h⟩ := andThen_eq (perform (.regRead 1) s) fun v => if v.testBit 7 then [.poll] else []
    exact .inr ⟨_, ops, rfl, h⟩
  | mvout =>
    obtain ⟨ops, h⟩ := andThen_eq (perform (.regRead 5) s) fun k => [.mvoutRead 0 k]
    exact .inr ⟨_, ops, rfl, h⟩
  | mvoutRead i k =>
    by_cases hk : i < k
    · obtain ⟨ops, h⟩ := andThen_eq (perform (.obufRead i) s) fun b => [.mvoutWrite i k b]
      exact .inr ⟨.obufRead i, ops, by simp only [nextAccess, if_pos hk], by simp only [runInput, if_pos hk, h]⟩
    · exact .inr ⟨.regWrite 2 k, [.access (.regWrite 3 1)], by simp only [nextAccess, if_neg hk], by simp only [runInput, if_neg hk]⟩
  | mvoutWrite i k b => exact .inr ⟨_, _, rfl, rfl⟩
  | reset => exact .inl ⟨rfl, rfl⟩

/-- The host's step: nothing when nothing is pending; otherwise the first input is taken off, the delay goes down by
one, and it is a reset or one host access, with that access's effect `w`. -/
theorem hostStep_effect (s : State) :
    (s.inputs = [] ∧ hostStep s = s) ∨
    ∃ op rest u, s.inputs = op :: rest ∧ u = { s with inputs := rest, delay := s.delay - 1 } ∧
      ((op = .reset ∧ hostStep s = resetBlock u) ∨
       ∃ a ops w, nextAccess op = some a ∧ PerformEffect a u w ∧ hostStep s = pushInputs ops w) := by
  unfold hostStep
  split
  · exact .inl ⟨‹_›, rfl⟩
  · rename_i op rest h
    refine .inr ⟨op, rest, _, h, rfl, ?_⟩
    obtain h | ⟨a, ops, ha, h⟩ := runInput_effect op { s with inputs := rest, delay := s.delay - 1 }
    · exact .inl h
    · exact .inr ⟨a, ops, _, ha, perform_effect a _, h⟩

end Sys2Proof.Machine
end

