-- ==== Sys2Proof/Laws/HostProgram.lean ====
section
/-! SUPPORT. The small lemmas of the transcriber: the accesses of a load, a mnemonic's line, and a program's lines. -/

namespace Sys2Proof.Machine

theorem loadBytesFrom_eq (i : Nat) (bs : List Nat) :
    loadBytesFrom i bs = (bs.zipIdx i).map fun p => .access (.ibufWrite p.2 p.1) := by
  induction bs generalizing i with
  | nil => rfl
  | cons b bs ih => simp only [loadBytesFrom, ih, List.zipIdx_cons, List.map_cons]

theorem loadBytes_eq (bs : List Nat) :
    loadBytes bs = (bs.zipIdx.map fun p => Input.access (.ibufWrite p.2 p.1)) ++
      [.access (.regWrite 2 bs.length), .access (.regWrite 3 1)] := by
  rw [loadBytes, loadBytesFrom_eq]

/-- A line that names no command is refused by that name, and any other has its accesses. -/
theorem commandLine_eq (m : String) :
    commandLine m =
      match mnemonicWord m with
      | some w => .ok [.access (.regWrite 0 w.toNat)]
      | none => .error (.unknownMnemonic m) := rfl

theorem transcribe_cons (l : HostLine) (ls : List HostLine) :
    transcribe (l :: ls) =
      match transcribeLine l with
      | .error r => .error r
      | .ok ops =>
        match transcribe ls with
        | .error r => .error r
        | .ok rest => .ok (ops ++ rest) := rfl

/-- Loading a program adds to the pending inputs or marks the run as refused, and does nothing else. -/
theorem loadProgram_cases (ls : List HostLine) (s : State) :
    (∃ ops, transcribe ls = .ok ops ∧ loadProgram ls s = { s with inputs := s.inputs ++ ops }) ∨
    ∃ r, transcribe ls = .error r ∧ loadProgram ls s = refuse r s := by
  unfold loadProgram
  cases h : transcribe ls with
  | ok ops => exact .inl ⟨ops, rfl, rfl⟩
  | error r => exact .inr ⟨r, rfl, rfl⟩

end Sys2Proof.Machine
end

