-- ==== Sys2Proof/Laws/PerInstr.lean ====
section
/-! SUPPORT. A law of every command as syntax: its word is that of one row of the opcode table
(spec/30_encoding.md R50) or a reserved word (R51), never both. -/

namespace Sys2Proof.Laws.TableRow

open Sys2Proof

/-- A row of the opcode table is the command's. -/
def hasRow (i : Instr) : Bool := opcodeTable.any fun r => r.instr == i && rowOpcode r == encode i

/-- A well-formed command has a row of its own, or its word is reserved, and not both. -/
def Statement (i : Instr) : Prop := WellFormed i = true → hasRow i = !isReservedWord (encode i)

theorem w16le : Statement .w16le := by unfold Statement; decide

theorem lew16 : Statement .lew16 := by unfold Statement; decide

theorem w16be : Statement .w16be := by unfold Statement; decide

theorem bew16 : Statement .bew16 := by unfold Statement; decide

theorem h2b : Statement .h2b := by unfold Statement; decide

theorem b2h : Statement .b2h := by unfold Statement; decide

theorem crc : Statement .crc := by unfold Statement; decide

theorem acrc : Statement .acrc := by unfold Statement; decide

theorem vcrc : Statement .vcrc := by unfold Statement; decide

theorem mbap : Statement .mbap := by unfold Statement; decide

theorem reserved (word : Byte) : Statement (.reserved word) := by
  unfold Statement
  revert word
  decide

end Sys2Proof.Laws.TableRow
end

