-- ==== Sys2Proof/Laws/Run.lean ====
section
/-! SUPPORT. Runs of several steps, one step at a time, and the bit that ends a poll. -/

namespace Sys2Proof.Machine

theorem core_run_zero (s : State) : Sys2Proof.core.run 0 s = .next s := rfl

/-- A step into a next state comes off a run. -/
theorem core_run_succ {s t : State} {k : Nat} (h : step s = .next t) :
    Sys2Proof.core.run (k + 1) s = Sys2Proof.core.run k t := by
  have general : ∀ (M : Host.Core) (s t : M.State), M.step s = .next t → M.run (k + 1) s = M.run k t := by
    intro M s t h
    simp only [Host.Core.run, h]
  exact general Sys2Proof.core s t h

theorem packStatus_bit7 : ∀ (busy busyerr opres flag : Bool) (code : BitVec 4),
    (packStatus busy busyerr opres flag code).toNat.testBit 7 = busy := by decide

/-- Bit 7 of STATUS is BUSY, whatever the free values are (10_state R17, 70_reset R117). -/
theorem statusByte_bit7 (s : State) : (statusByte s).toNat.testBit 7 = s.busy := packStatus_bit7 ..

theorem busyStatusByte_bit7 (s : State) : (busyStatusByte s).toNat.testBit 7 = s.busy := packStatus_bit7 ..

end Sys2Proof.Machine
end

