-- ==== Sys2Proof/Tests/Slice0.lean ====
section
/-! SUPPORT. Tests of the model. Expected values are the vectors of spec/95_test_vectors.md (their ids are named) or the
spec's encoding tables. Then, for each statement with hypotheses, a witness that they can be met: a theorem
`witness_<what>` that gives a concrete state and operands. -/

namespace Sys2Proof.Tests

open Sys2Proof Sys2Proof.Machine Sys2Proof.Claims

/-- The state after one command; the state itself where the command does not complete. -/
def after (i : Instr) (s : State) : State :=
  match exec i s with
  | .next t => t
  | .fault _ => s
  | .refused _ => s

/-- The state after one step; the state itself where there is none. -/
def stepped (s : State) : State :=
  match step s with
  | .next t => t
  | .fault _ => s
  | .refused _ => s

/-- After reset, with `bs` loaded as by `ldbytes` (30_encoding R61). -/
def loaded (bs : List Byte) : State :=
  { State.reset with ibuf := Memory.writeSeq [] 0 bs, ilen := BitVec.ofNat 16 bs.length, ipres := true }

/-- A state with a command outstanding whose turn is not yet come, and inputs pending. -/
def waiting (op : Byte) (inputs : List Input) : State :=
  { State.reset with cmd := op, busy := true, delay := 3, inputs := inputs }

/-- The byte output `OBUF[0..OLEN)` as a list, none for an absent one. -/
def output (t : State) : Option (List (Option Byte)) :=
  if t.opres then some ((List.range t.olen.toNat).map t.obuf.read) else none

/-! ## Well-formedness -/

/-- 30_encoding R51: a word of the map is no reserved word, at both sides of every range. -/
theorem test_illformed_refused :
    [0x01#8, 0x02#8, 0x03#8, 0x04#8, 0x11#8, 0x12#8, 0x21#8, 0x22#8, 0x23#8, 0x31#8].all
      (fun w => !WellFormed (.reserved w)) = true := by decide

/-- R51: the ends of the five ranges of reserved words. -/
theorem test_reserved_wellformed :
    [0x00#8, 0x05#8, 0x10#8, 0x13#8, 0x20#8, 0x24#8, 0x30#8, 0x32#8, 0xFF#8].all
      (fun w => WellFormed (.reserved w)) = true := by decide

/-- R51: there are 246 reserved words. -/
theorem test_reserved_count :
    ((List.range 256).filter fun n => isReservedWord (BitVec.ofNat 8 n)).length = 246 := by decide +kernel

/-! ## Decoding: GROUP in bits 7 to 4, FUNC in bits 3 to 0, written out bit by bit from R49 and R50 -/

theorem test_decode_endian :
    decode 0b00000001#8 = .w16le ∧ decode 0b00000010#8 = .lew16 ∧
    decode 0b00000011#8 = .w16be ∧ decode 0b00000100#8 = .bew16 := by decide

theorem test_decode_hex : decode 0b00010001#8 = .h2b ∧ decode 0b00010010#8 = .b2h := by decide

theorem test_decode_crc :
    decode 0b00100001#8 = .crc ∧ decode 0b00100010#8 = .acrc ∧ decode 0b00100011#8 = .vcrc := by decide

theorem test_decode_mbap : decode 0b00110001#8 = .mbap := by decide

/-- S1 to S4: FUNC 0 is reserved in every group, and so are the words beside each family. -/
theorem test_decode_reserved :
    [0b00000000#8, 0b00010000#8, 0b00100000#8, 0b00110000#8, 0b00000101#8, 0b00010011#8, 0b00100100#8, 0b00110010#8,
      0b01000001#8, 0b11111111#8].all (fun w => decode w == .reserved w) = true := by decide

/-- R49: no byte, no command; and a value of more than 8 bits is no command word (R35). -/
theorem test_decode_refuses : decodeBytes [] = .error .noWord ∧ decodeTableWord 8 0x131 = none := by
  constructor <;> rfl

/-- The bytes after the command word are left. -/
theorem test_decode_bytes : decodeBytes [0b00110001#8, 0xAA#8] = .ok (.mbap, [0xAA#8]) := rfl

/-- R62: mnemonics are case-sensitive, and no other name has an encoding (F9). -/
theorem test_mnemonics :
    mnemonicWord "VCRC" = some 0x23#8 ∧ mnemonicWord "vcrc" = none ∧ mnemonicWord "CRC16" = none := by decide

/-! ## One step a test -/

/-- W1. -/
theorem test_w16le_swaps :
    output (after .w16le { State.reset with win := 0x1234#16 }) = some [some 0x34#8, some 0x12#8] := by decide

/-- W5. -/
theorem test_lew16_low_first : (after .lew16 (loaded [0x34#8, 0x12#8])).wout = 0x1234#16 := by decide

/-- W15, S7: three bytes are ILLEGAL and WOUT stays. -/
theorem test_lew16_needs_two :
    after .lew16 { loaded [1#8, 2#8, 3#8] with busy := true, wout := 0xABCD#16 } =
      { loaded [1#8, 2#8, 3#8] with code := 0xF#4, wout := 0xABCD#16, draws := 1 } := by decide

/-- W9. -/
theorem test_w16be_keeps_order :
    output (after .w16be { State.reset with win := 0x1234#16 }) = some [some 0x12#8, some 0x34#8] := by decide

/-- W12, W14. -/
theorem test_bew16_high_first :
    (after .bew16 (loaded [0x00#8, 0x07#8])).wout = 0x0007#16 ∧
    (after .bew16 (loaded [0x34#8, 0x12#8])).wout = 0x3412#16 := by decide

/-- X7, X8 and X9: whitespace inside a pair, both cases, and control characters. -/
theorem test_h2b_accepts :
    output (after .h2b (loaded [0x30#8, 0x20#8, 0x31#8])) = some [some 0x01#8] ∧
    output (after .h2b (loaded [0x61#8, 0x42#8, 0x63#8, 0x44#8])) = some [some 0xAB#8, some 0xCD#8] ∧
    output (after .h2b (loaded [0x09#8, 0x30#8, 0x61#8, 0x0D#8, 0x0A#8])) = some [some 0x0A#8] := by decide

/-- X2, X3, X5: odd length and a wrong character fail, and the empty text is the empty sequence. -/
theorem test_h2b_format :
    statusByte (after .h2b (loaded [0x31#8])) = 0x01#8 ∧ statusByte (after .h2b (loaded [0x31#8, 0x47#8])) = 0x01#8 ∧
    statusByte (after .h2b (loaded [])) = 0x20#8 := by decide

/-- X16. -/
theorem test_b2h_renders :
    output (after .b2h (loaded [0xAB#8, 0x0F#8])) =
      some [some 0x61#8, some 0x62#8, some 0x20#8, some 0x30#8, some 0x66#8, some 0x20#8] := by decide

/-- X20, X19: an absent input is absent whatever ILEN, with no fault, and a present empty one is present. -/
theorem test_b2h_absent :
    after .b2h { State.reset with ilen := 0xFFFF#16, opres := true, olen := 7#16 } =
      { State.reset with ilen := 0xFFFF#16, draws := 1 } ∧
    output (after .b2h (loaded [])) = some [] := by decide

/-- C1. -/
theorem test_crc_vector :
    (after .crc (loaded [0x01#8, 0x03#8, 0x00#8, 0x00#8, 0x00#8, 0x01#8])).wout = 0x0A84#16 := by decide +kernel

/-- R78: the empty sequence gives the initial value, and one byte 0x00 gives 0x40BF. -/
theorem test_crc_short : crc16 [] = 0xFFFF#16 ∧ crc16 [0x00#8] = 0x40BF#16 := by decide

/-- C8. -/
theorem test_acrc_vector :
    output (after .acrc (loaded [0x01#8, 0x03#8, 0x00#8, 0x00#8, 0x00#8, 0x01#8])) =
      some [some 0x01#8, some 0x03#8, some 0x00#8, some 0x00#8, some 0x00#8, some 0x01#8, some 0x84#8, some 0x0A#8] := by
  decide +kernel

/-- C13, C14. -/
theorem test_vcrc_vector :
    (after .vcrc (loaded [0x01#8, 0x03#8, 0x00#8, 0x00#8, 0x00#8, 0x01#8, 0x84#8, 0x0A#8])).flag = true ∧
    (after .vcrc (loaded [0x01#8, 0x03#8, 0x00#8, 0x00#8, 0x00#8, 0x01#8, 0x84#8, 0x0B#8])).flag = false := by
  decide +kernel

/-- R82: one byte is false, without a fault though it is unwritten. -/
theorem test_vcrc_short :
    after .vcrc { State.reset with ilen := 1#16, flag := true } = { State.reset with ilen := 1#16, draws := 1 } := by
  decide

/-- M4: TID wraps. -/
theorem test_mbap_wraps :
    let t := after .mbap { loaded [0x03#8] with tid := 0xFFFF#16 }
    output t = some [some 0xFF#8, some 0xFF#8, some 0#8, some 0#8, some 0#8, some 2#8, some 3#8] ∧ t.tid = 0#16 := by
  decide

/-- M10: 253 bytes never written are FRAME_TOO_LARGE, with no fault and the same TID. -/
theorem test_mbap_too_large :
    after .mbap { State.reset with ilen := 253#16, tid := 7#16, opres := true, olen := 9#16 } =
      { State.reset with ilen := 253#16, tid := 7#16, code := 0x2#4, draws := 1 } := by decide

/-- S1: a reserved command completes with STATUS = 0x0F and changes nothing else. -/
theorem test_reserved_illegal :
    stepped { State.reset with cmd := 0xFF#8, busy := true } =
      { State.reset with cmd := 0xFF#8, code := 0xF#4, draws := 1 } := by decide

/-- W18: the fault of an unwritten input byte is recorded and the command still completes with OK. -/
theorem test_unwritten_input :
    (stepped { loaded [0x34#8] with ilen := 2#16, cmd := 0x02#8, busy := true }).faults = [.unwrittenInput 0x02#8 1] ∧
    (stepped { loaded [0x34#8] with ilen := 2#16, cmd := 0x02#8, busy := true }).code = 0x0#4 := by decide

/-- F1, F5: an unwritten read is a fault on record, a reserved register number a refusal. -/
theorem test_host_faults :
    (perform (.ibufRead 5) State.reset).2.faults = [.unwrittenRead 5] ∧
    (perform (.regRead 8) State.reset).2.refusal = some (.reservedRegister 8) ∧
    (perform (.regWrite 3 2) State.reset).2.refusal = some (.valueTooWide (.regWrite 3 2)) := by decide

/-- H5: a second command is rejected, and the outstanding one stays. -/
theorem test_busyerr :
    let t := stepped (waiting 0x23#8 [.access (.regWrite 0 0x31)])
    t.busyerr = true ∧ t.cmd = 0x23#8 ∧ t.busy = true := by decide

/-- F3: an operand write under a command is a fault, names its access, and takes effect. -/
theorem test_operand_write_busy :
    let t := stepped (waiting 0x23#8 [.access (.regWrite 2 4)])
    t.faults = [.operandWriteWhileBusy (.regWrite 2 4)] ∧ t.ilen = 4#16 := by decide

/-- P4 line 1 (95_test_vectors section 3.4), and U12: the accesses of ldtext, and a program that marks the run. -/
theorem test_host_lines :
    transcribeLine (.ldtext "1G") = .ok
      [.access (.ibufWrite 0 0x31), .access (.ibufWrite 1 0x47), .access (.regWrite 2 2), .access (.regWrite 3 1)] ∧
    (loadProgram [.poll, .cmd "CRC16"] State.reset).refusal = some (.unknownMnemonic "CRC16") := by
  refine ⟨by decide, by decide⟩

/-- R38: two reads of an IBUF byte never written return one value, while a command is outstanding too, with another
read between them. -/
theorem test_unwritten_reads_agree :
    let s := waiting 0x23#8 []
    (perform (.ibufRead 5) (perform (.regRead 6) (perform (.ibufRead 5) s).2).2).1 = (perform (.ibufRead 5) s).1 := rfl

/-- U7, U8: each read of an undefined OBUF byte has a read number, so a free value, of its own. -/
theorem test_undefined_reads_fresh :
    readNumber (perform (.obufRead 0) State.reset).2 = readNumber State.reset + 1 := rfl

/-! ## Witnesses: the hypotheses of each statement can be met -/

theorem witness_step : step State.reset = .next State.reset ∧ State.reset.refusal = none := ⟨rfl, rfl⟩

/-- EncodeDecodeRoundTrip. -/
theorem witness_wellformed : WellFormed .mbap = true ∧ WellFormed (.reserved 0xFF#8) = true := by decide

/-- ReservedWordsCompleteIllegal: the first and the last reserved word, issued and executed. -/
theorem witness_reserved :
    (0x00#8 : Byte).toNat ∉ opcodes ∧ (0xFF#8 : Byte).toNat ∉ opcodes ∧ State.reset.busy = false ∧
    let s := State.reset.withFetchWord 8 0xFF
    s.cmd = 0xFF#8 ∧ s.refusal = none ∧ engineTurn s = true := by decide

/-- The statements of the results: a stable state with written input, two bytes long. -/
theorem witness_stable_input : InputIs (loaded [0x34#8, 0x12#8]) [0x34#8, 0x12#8] :=
  ⟨rfl, rfl, rfl, by decide⟩

/-- Lengths at the clauses' bounds: 0, 1, 2, 3, 252, 253 and 768 are all ILEN values of stable states within MAXLEN. -/
theorem witness_lengths (n : Nat) (h : n ≤ 768) :
    { State.reset with ilen := BitVec.ofNat 16 n }.OperandsStable ∧
    { State.reset with ilen := BitVec.ofNat 16 n : State }.ilen.toNat = n ∧ n ≤ Config.maxLen := by
  have := maxLen_bounds
  refine ⟨rfl, ?_, by omega⟩
  show (BitVec.ofNat 16 n).toNat = n
  rw [BitVec.toNat_ofNat]
  omega

/-- The clauses `MAXLEN < ILEN` can be met exactly for a block with MAXLEN below 65535 (00_scope R6 leaves it open). -/
theorem witness_over_maxLen (h : Config.maxLen < 65535) :
    { State.reset with ilen := 0xFFFF#16 }.OperandsStable ∧
    Config.maxLen < { State.reset with ilen := 0xFFFF#16 : State }.ilen.toNat := ⟨rfl, h⟩

/-- H2bDecodesHexText: both kinds of text. -/
theorem witness_texts :
    malformedText (strippedText [0x31#8, 0x20#8]) = true ∧ malformedText (strippedText [0x31#8, 0x47#8]) = true ∧
    malformedText (strippedText [0x31#8, 0x20#8, 0x66#8]) = false := by decide

/-- B2hRendersHexText, CompletionCodePriority: absent and present input. -/
theorem witness_presence : State.reset.OperandsStable ∧ State.reset.ipres = false ∧ (loaded []).ipres = true ∧
    (loaded []).OperandsStable := ⟨rfl, rfl, rfl, rfl⟩

/-- CompletionCodePriority: each outcome of the order is met, at its bounds. -/
theorem witness_priority :
    priorityCode 0x05#8 State.reset = 0xF#4 ∧ priorityCode 0x12#8 State.reset = 0x0#4 ∧
    priorityCode 0x11#8 (loaded [0x31#8]) = 0x1#4 ∧ priorityCode 0x23#8 (loaded [0x31#8]) = 0x0#4 ∧
    priorityCode 0x02#8 (loaded [1#8]) = 0xF#4 ∧ priorityCode 0x31#8 { State.reset with ilen := 253#16 } = 0x2#4 ∧
    priorityCode 0x31#8 { State.reset with ilen := 252#16 } = 0x0#4 := by
  have := maxLen_bounds
  have e1 : ¬ Config.maxLen < 1 := by omega
  have e2 : ¬ Config.maxLen < 252 := by omega
  have e3 : ¬ Config.maxLen < 253 := by omega
  refine ⟨rfl, rfl, ?_, ?_, ?_, ?_, ?_⟩
  · show (if _ then _ else if _ then _ else if _ ∧ _ ∧ Config.maxLen < 1 then _ else _) = _
    simp only [e1, and_false, if_false]
    decide
  · show (if _ then _ else if _ then _ else if _ ∧ _ ∧ Config.maxLen < 1 then _ else _) = _
    simp only [e1, and_false, if_false]
    decide
  · show (if _ then _ else if _ then _ else if _ ∧ _ ∧ Config.maxLen < 1 then _ else _) = _
    simp only [e1, and_false, if_false]
    decide
  · show (if _ then _ else if _ then _ else if _ ∧ _ ∧ Config.maxLen < 253 then _ else _) = _
    simp only [e3, and_false, if_false]
    decide
  · show (if _ then _ else if _ then _ else if _ ∧ _ ∧ Config.maxLen < 252 then _ else _) = _
    simp only [e2, and_false, if_false]
    decide

/-- StepRunsOutstandingCommand: a delay that is over, and no pending input before one that is not. -/
theorem witness_engine_turn :
    engineTurn (State.reset.withFetchWord 8 0x31) = true ∧ engineTurn (waiting 0x31#8 []) = true ∧
    (waiting 0x31#8 []).refusal = none := by decide

/-- StepTakesNextInput: busy states whose turn is not yet come, and the idle state with nothing pending. -/
theorem witness_host_turn :
    engineTurn (waiting 0x31#8 [.poll]) = false ∧ (waiting 0x31#8 [.poll]).inputs = [.poll] ∧
    engineTurn (waiting 0x31#8 [.reset]) = false ∧ (waiting 0x31#8 [.reset]).refusal = none ∧
    engineTurn (waiting 0x31#8 [.access (.regRead 1)]) = false ∧
    State.reset.busy = false ∧ State.reset.inputs = [] := by decide

/-- HostLoopsGoOn: each of the five clauses, mvout's index at both sides of its bound. -/
theorem witness_loops :
    (∃ v t, perform (.regRead 1) (taken (waiting 0x31#8 [.poll])) = (some v, t)) ∧
    (∃ k t, perform (.regRead 5) (taken (waiting 0x31#8 [.mvout])) = (some k, t)) ∧
    (∃ b t, perform (.obufRead 0) (taken (waiting 0x31#8 [.mvoutRead 0 1])) = (some b, t)) ∧
    (∃ t, perform (.ibufWrite 0 255) (taken (waiting 0x31#8 [.mvoutWrite 0 1 255])) = (none, t)) ∧
    (∃ t, perform (.regWrite 2 1) (taken (waiting 0x31#8 [.mvoutRead 1 1])) = (none, t)) ∧
    engineTurn (waiting 0x31#8 [.mvoutRead 1 1]) = false ∧ 0 < 1 ∧ 1 ≤ 1 :=
  ⟨⟨_, _, rfl⟩, ⟨_, _, rfl⟩, ⟨_, _, rfl⟩, ⟨_, rfl⟩, ⟨_, rfl⟩, by decide, by decide, by decide⟩

/-- CommandWriteIssues, BusyerrHistory, BusyHistory: a rejected CMD write, at the greatest word. -/
theorem witness_rejects :
    let s := waiting 0x23#8 [.access (.regWrite 0 0xFF)]
    RejectsCommand s ∧ step s = .next (stepped s) := ⟨⟨rfl, 0xFF, by decide, rfl⟩, rfl⟩

/-- CommandWriteIssues, BusyerrHistory, BusyHistory: an accepted CMD write, at the least word. -/
theorem witness_accepts :
    let s := { State.reset with inputs := [.access (.regWrite 0 0)], busyerr := true }
    AcceptsCommand s ∧ step s = .next (stepped s) := ⟨⟨rfl, 0, by decide, rfl⟩, rfl⟩

/-- BusyerrHistory, BusyHistory, TidHistory, ResetAbandonsCommand: a reset while a command is outstanding. -/
theorem witness_takes_reset :
    let s := { waiting 0x31#8 [.reset] with tid := 5#16, busyerr := true }
    TakesReset s ∧ s.refusal = none ∧ step s = .next (stepped s) := ⟨⟨rfl, rfl⟩, rfl, rfl⟩

/-- BusyerrHistory, BusyHistory, ResultsStayUntilNextCommand, TidHistory: a step of none of those kinds, on an idle and
on a busy block. -/
theorem witness_other_step :
    (let s := { State.reset with inputs := [.access (.regRead 7)], busyerr := true }
     ¬ RejectsCommand s ∧ ¬ AcceptsCommand s ∧ ¬ TakesReset s ∧ s.busy = false ∧ engineTurn s = false ∧
       step s = .next (stepped s)) ∧
    (let s := waiting 0x31#8 [.access (.regRead 7)]
     ¬ RejectsCommand s ∧ ¬ AcceptsCommand s ∧ ¬ TakesReset s ∧ engineTurn s = false ∧ step s = .next (stepped s)) := by
  refine ⟨⟨?_, ?_, ?_, rfl, rfl, rfl⟩, ?_, ?_, ?_, rfl, rfl⟩ <;>
    first
    | rintro ⟨_, _, _, h⟩; cases h
    | rintro ⟨_, h⟩; cases h

/-- TidHistory, BusyHistory: an MBAP step that succeeds with TID at its greatest, and one that does not. -/
theorem witness_mbap_step :
    (let s := { loaded [3#8] with cmd := 0x31#8, busy := true, tid := 0xFFFF#16 }
     engineTurn s = true ∧ step s = .next (stepped s) ∧ (stepped s).code = 0x0#4) ∧
    (let s := { State.reset with ilen := 253#16, cmd := 0x31#8, busy := true }
     engineTurn s = true ∧ step s = .next (stepped s) ∧ (stepped s).code = 0x2#4) := by
  refine ⟨⟨rfl, rfl, by decide⟩, rfl, rfl, by decide⟩

/-- ReadOnlyWritesIgnored: the read-only registers at their greatest values. -/
theorem witness_read_only :
    ((1 = 1 ∧ 255 < 256) ∨ ((1 = 5 ∨ 1 = 6 ∨ 1 = 7) ∧ 255 < 65536)) ∧
    ((7 = 1 ∧ 65535 < 256) ∨ ((7 = 5 ∨ 7 = 6 ∨ 7 = 7) ∧ 65535 < 65536)) := by decide

/-- FaultsExactlyAsNamed: a step of each of the three cases; the engine's reads the last byte of its input. -/
theorem witness_faults :
    (recordFaults [.unwrittenRead 0] State.reset).faults ≠ [] ∧
    (let s := { loaded [0x34#8] with ilen := 2#16, cmd := 0x02#8, busy := true }
     engineTurn s = true ∧ readCount s = 2 ∧ s.ibuf.read 1 = none ∧ step s = .next (stepped s)) ∧
    (let s := { State.reset with inputs := [.access (.ibufRead 767)] }
     hostAccess s = some (.ibufRead 767) ∧ 767 < Config.maxLen ∧ s.ibuf.read 767 = none ∧ step s = .next (stepped s)) ∧
    (let s := waiting 0x23#8 [.access (.regWrite 4 0xFFFF)]
     hostAccess s = some (.regWrite 4 0xFFFF) ∧ ¬ OutsideInterface (.regWrite 4 0xFFFF) ∧
       WritesOperand (.regWrite 4 0xFFFF) ∧ s.busy = true ∧ step s = .next (stepped s)) := by
  have := maxLen_bounds
  refine ⟨by decide, by refine ⟨rfl, rfl, rfl, rfl⟩, ⟨rfl, by omega, rfl, rfl⟩, rfl, ?_, .inr (.inr rfl), rfl, rfl⟩
  rintro (h | ⟨w, h, h'⟩)
  · omega
  · cases h
    omega

/-- RefusalsExactlyAsNamed: accesses just outside the interface, at each bound, and a marked state. -/
theorem witness_refusals :
    OutsideInterface (.regRead 8) ∧ OutsideInterface (.regWrite 15 0) ∧ OutsideInterface (.regWrite 0 256) ∧
    OutsideInterface (.regWrite 3 2) ∧ OutsideInterface (.regWrite 4 65536) ∧ OutsideInterface (.ibufWrite 0 256) ∧
    OutsideInterface (.ibufRead Config.maxLen) ∧ OutsideInterface (.obufRead (3 * Config.maxLen)) ∧
    hostAccess { State.reset with inputs := [.access (.regRead 8)] } = some (.regRead 8) ∧
    (refuse (.reservedRegister 8) State.reset).refusal = some (.reservedRegister 8) :=
  ⟨le_rfl, .inl (by decide), .inr ⟨8, rfl, le_rfl⟩, .inr ⟨1, rfl, le_rfl⟩, .inr ⟨16, rfl, le_rfl⟩, .inr le_rfl,
    le_rfl, le_rfl, rfl, rfl⟩

/-- RefusalsExactlyAsNamed: a program that names no command, and one that names one. -/
theorem witness_programs :
    NamesUnknown [.poll, .cmd "CRC16"] ∧ ¬ NamesUnknown [.run "H2B", .mvout] := by
  refine ⟨⟨.cmd "CRC16", by simp, "CRC16", rfl, by decide⟩, ?_⟩
  rintro ⟨l, hl, m, hm, hn⟩
  simp only [List.mem_cons, List.not_mem_nil, or_false] at hl
  rcases hl with rfl | rfl
  · cases hm
    exact hn (by decide)
  · cases hm

/-- HostLinesExpand: the first and the last register, the first and the last mnemonic, an unknown one, and lines with
their accesses. -/
theorem witness_lines :
    (.cmd, 0) ∈ regNumbers ∧ (.tid, 7) ∈ regNumbers ∧ ("W16LE", 0x01) ∈ mnemonics.zip opcodes ∧
    ("MBAP", 0x31) ∈ mnemonics.zip opcodes ∧ "mbap" ∉ mnemonics ∧
    transcribeLine .poll = .ok [.poll] ∧ transcribe [.mvout] = .ok [.mvout] := by
  refine ⟨by decide, by decide, by decide, by decide, by decide, rfl, rfl⟩

/-- HostReadsWhileBusy: register numbers 0, 1, 5 and 7, a written byte of IBUF, and the index 0 of OBUF. -/
theorem witness_reads_busy :
    let s := { loaded [0xAA#8] with busy := true }
    s.busy = true ∧ 0 < 8 ∧ 1 < 8 ∧ 5 < 8 ∧ 7 < 8 ∧ 0 < Config.maxLen ∧ s.ibuf.read 0 = some 0xAA#8 ∧
      0 < 3 * Config.maxLen := by
  have := maxLen_bounds
  refine ⟨rfl, by omega, by omega, by omega, by omega, by omega, rfl, by omega⟩

/-- HostReadsWhenIdle: the last register; a written and an unwritten IBUF byte; the last defined byte of an output, the
index after it, and a byte that a shorter output leaves listed. -/
theorem witness_reads_idle :
    let s := { after .w16le { loaded [0xAA#8] with win := 0x1234#16 } with tid := 9#16 }
    s.busy = false ∧ [0, 0, 0, 0, 0, 0, 0, s.tid.toNat][7]? = some 9 ∧ 0 < Config.maxLen ∧
      s.ibuf.read 0 = some 0xAA#8 ∧ 1 < Config.maxLen ∧ s.ibuf.read 1 = none ∧ 1 < s.olen.toNat ∧
      s.obuf.read 1 = some 0x12#8 ∧ s.olen.toNat ≤ 2 ∧ 2 < 3 * Config.maxLen ∧
      (dropOutput s).olen.toNat ≤ 1 ∧ (dropOutput s).obuf.read 1 = some 0x12#8 := by
  have := maxLen_bounds
  refine ⟨rfl, by decide, by omega, rfl, by omega, rfl, by decide, by decide, by decide, by omega, by decide, by decide⟩

/-- OperandWritesTakeEffect: the bounds of each operand, idle and busy. -/
theorem witness_operand_writes :
    767 < Config.maxLen ∧ 255 < 256 ∧ 65535 < 65536 ∧ 1 < 2 ∧ State.reset.busy = false ∧
    (waiting 0x23#8 []).busy = true := by
  have := maxLen_bounds
  refine ⟨by omega, by omega, by omega, by omega, rfl, rfl⟩

/-- PollEndsWithResults. -/
theorem witness_poll :
    (waiting 0x31#8 [.poll]).refusal = none ∧ (waiting 0x31#8 [.poll]).busy = true ∧
    (waiting 0x31#8 [.poll]).inputs = .poll :: [] := by decide

/-- MvoutCopiesOutput: an output of two bytes. -/
theorem witness_mvout :
    let s := { after .w16le { State.reset with win := 0x1234#16 } with inputs := [.mvout] }
    s.refusal = none ∧ s.busy = false ∧ s.inputs = .mvout :: [] ∧ s.olen.toNat = [0x34#8, 0x12#8].length ∧
      [0x34#8, 0x12#8].length ≤ Config.maxLen ∧ ∀ i, i < [0x34#8, 0x12#8].length → s.obuf.read i = [0x34#8, 0x12#8][i]? := by
  have := maxLen_bounds
  refine ⟨rfl, rfl, rfl, by decide, by simp; omega, by decide⟩

/-- StepKeepsInvariant: the reset state has the invariant and takes a step. -/
theorem witness_invariant : State.reset.Inv ∧ step State.reset = .next State.reset :=
  ⟨⟨rfl, rfl, rfl, rfl, Nat.zero_le _, fun _ h => absurd h (Nat.not_lt_zero _), rfl, fun h => absurd rfl h⟩, rfl⟩

/-- ResultsDependOnOperandsOnly: two different states with the same operands, for a command that reads its two bytes;
and for one that reads none of an unwritten input. -/
theorem witness_same_operands :
    (let s₁ := loaded [0x34#8, 0x12#8]
     let s₂ := { loaded [0x34#8, 0x12#8] with wout := 7#16, flag := true, cmd := 0x23#8 }
     s₁.OperandsStable ∧ s₂.OperandsStable ∧ s₁.ilen = s₂.ilen ∧ s₁.ipres = s₂.ipres ∧ s₁.win = s₂.win ∧
       s₁.ibuf = s₂.ibuf ∧ (0x31#8 = 0x31#8 → s₁.tid = s₂.tid) ∧
       s₁.InputWritten (readCount { s₁ with cmd := 0x31#8 }) ∧
       exec (decode 0x31#8) s₁ = .next (after .mbap s₁) ∧ exec (decode 0x31#8) s₂ = .next (after .mbap s₂)) ∧
    { State.reset with ilen := 253#16 }.InputWritten (readCount { State.reset with ilen := 253#16, cmd := 0x31#8 }) := by
  refine ⟨⟨rfl, rfl, rfl, rfl, rfl, rfl, fun _ => rfl, ?_, rfl, rfl⟩, ?_⟩
  · show ∀ i, i < 2 → _
    decide
  · show ∀ i, i < 0 → _
    decide

/-- EndianConverterLaws: the states of all six clauses, for the word 0x1234 and the pair [0x34, 0x12]. -/
theorem witness_endian :
    let s := { State.reset with win := 0x1234#16 }
    let le := [0x34#8, 0x12#8]
    let be := [0x12#8, 0x34#8]
    s.OperandsStable ∧ exec .w16le s = .next (after .w16le s) ∧ OutputIs (after .w16le s) le ∧
      exec .w16be s = .next (after .w16be s) ∧ OutputIs (after .w16be s) be ∧ InputIs (loaded le) le ∧
      InputIs (loaded be) be ∧ exec .lew16 (loaded le) = .next (after .lew16 (loaded le)) ∧
      exec .bew16 (loaded be) = .next (after .bew16 (loaded be)) ∧ s.win = (after .lew16 (loaded le)).wout ∧
      s.win = (after .bew16 (loaded be)).wout :=
  ⟨rfl, rfl, ⟨rfl, rfl, rfl, by decide⟩, rfl, ⟨rfl, rfl, rfl, by decide⟩, ⟨rfl, rfl, rfl, by decide⟩,
    ⟨rfl, rfl, rfl, by decide⟩, rfl, rfl, by decide, by decide⟩

/-- HexRoundTrips, first part: two bytes and their text. -/
theorem witness_hex_bytes :
    let bs := [0xAB#8, 0x0F#8]
    let text := [0x61#8, 0x62#8, 0x20#8, 0x30#8, 0x66#8, 0x20#8]
    3 * bs.length ≤ Config.maxLen ∧ InputIs (loaded bs) bs ∧
      exec .b2h (loaded bs) = .next (after .b2h (loaded bs)) ∧ OutputIs (after .b2h (loaded bs)) text ∧
      InputIs (loaded text) text := by
  have := maxLen_bounds
  refine ⟨by simp; omega, ⟨rfl, rfl, rfl, by decide⟩, rfl, ⟨rfl, rfl, by decide, by decide⟩, rfl, rfl, rfl, by decide⟩

/-- HexRoundTrips, second part, and H2bIgnoresCaseAndWhitespace: two texts of the same digits. -/
theorem witness_hex_texts :
    let x₁ := [0x61#8, 0x42#8]
    let x₂ := [0x41#8, 0x20#8, 0x62#8]
    InputIs (loaded x₁) x₁ ∧ InputIs (loaded x₂) x₂ ∧ x₁.length ≤ Config.maxLen ∧ x₂.length ≤ Config.maxLen ∧
      (strippedText x₁).map digitValue = (strippedText x₂).map digitValue ∧
      exec .h2b (loaded x₁) = .next (after .h2b (loaded x₁)) ∧ exec .h2b (loaded x₂) = .next (after .h2b (loaded x₂)) ∧
      OutputIs (after .h2b (loaded x₁)) [0xAB#8] ∧ InputIs (loaded [0xAB#8]) [0xAB#8] ∧ 3 * [0xAB#8].length < 65536 := by
  have := maxLen_bounds
  refine ⟨⟨rfl, rfl, rfl, by decide⟩, ⟨rfl, rfl, rfl, by decide⟩, by simp; omega, by simp; omega, by decide, rfl, rfl,
    ⟨by decide, by decide, by decide, by decide⟩, ⟨rfl, rfl, rfl, by decide⟩, by decide⟩

/-- VcrcCornerCases: ILEN 0 and 1; two bytes; and a frame whose CRC stands high byte first, with equal bytes and with
different ones. -/
theorem witness_vcrc :
    State.reset.OperandsStable ∧ State.reset.ilen.toNat < 2 ∧ (loaded [1#8]).ilen.toNat < 2 ∧
    exec .vcrc State.reset = .next (after .vcrc State.reset) ∧ InputIs (loaded [0xFF#8, 0xFF#8]) [0xFF#8, 0xFF#8] ∧
    [0x00#8].length + 2 ≤ Config.maxLen ∧ (crc16 []).toNat = (0xFF#8).toNat + 256 * (0xFF#8).toNat ∧
    (crc16 [0x00#8]).toNat = (0xBF#8).toNat + 256 * (0x40#8).toNat ∧
    InputIs (loaded ([0x00#8] ++ [0x40#8, 0xBF#8])) ([0x00#8] ++ [0x40#8, 0xBF#8]) := by
  have := maxLen_bounds
  refine ⟨rfl, by decide, by decide, rfl, ⟨rfl, rfl, rfl, by decide⟩, by simp; omega, by decide, by decide, rfl, rfl, rfl,
    by decide⟩

/-- AcrcThenVcrcHolds, SingleBitFlipIsDetected: the frame of one byte, and its last bit flipped. -/
theorem witness_acrc :
    let bs := [0x00#8]
    let out := [0x00#8, 0xBF#8, 0x40#8]
    bs.length + 2 ≤ Config.maxLen ∧ InputIs (loaded bs) bs ∧
      exec .acrc (loaded bs) = .next (after .acrc (loaded bs)) ∧ OutputIs (after .acrc (loaded bs)) out ∧
      InputIs (loaded out) out ∧ bs.length ≤ Config.maxLen ∧ out.length = bs.length + 2 ∧
      (∀ i, i < out.length → (after .acrc (loaded bs)).obuf.read i = out[i]?) ∧ 2 < out.length ∧ 7 < 8 ∧
      InputIs (loaded (flipBit 2 7 out)) (flipBit 2 7 out) := by
  have := maxLen_bounds
  refine ⟨by simp; omega, ⟨rfl, rfl, rfl, by decide⟩, rfl, ⟨rfl, rfl, by decide, by decide⟩, ⟨rfl, rfl, rfl, by decide⟩,
    by simp; omega, rfl, by decide, by decide, by decide, rfl, rfl, rfl, by decide⟩

/-- MbapHeaderConsequences: the empty PDU, and two frames in a row over TID's wrap. -/
theorem witness_mbap :
    let s := { loaded [] with tid := 0xFFFF#16 }
    let u := { loaded [0x03#8] with tid := 0x0000#16 }
    let x := [0xFF#8, 0xFF#8, 0#8, 0#8, 0#8, 1#8]
    let y := [0x00#8, 0x00#8, 0#8, 0#8, 0#8, 2#8, 3#8]
    InputIs s [] ∧ InputIs u [0x03#8] ∧ exec .mbap s = .next (after .mbap s) ∧ OutputIs (after .mbap s) x ∧
      u.tid = (after .mbap s).tid ∧ exec .mbap u = .next (after .mbap u) ∧ OutputIs (after .mbap u) y ∧
      x[0]? = some 0xFF#8 ∧ y[1]? = some 0x00#8 :=
  ⟨⟨rfl, rfl, rfl, by decide⟩, ⟨rfl, rfl, rfl, by decide⟩, rfl, ⟨rfl, rfl, by decide, by decide⟩, by decide, rfl,
    ⟨rfl, rfl, by decide, by decide⟩, rfl, rfl⟩

/-- MbapHeaderConsequences: a PDU at the limit of 252 bytes; M6: its LEN is 253 and its frame 258 bytes long. -/
theorem witness_mbap_limit :
    let p := List.replicate 252 0xAA#8
    let t := after .mbap (loaded p)
    InputIs (loaded p) p ∧ p.length ≤ 252 ∧ t.code = 0x0#4 ∧ t.olen = 258#16 ∧ t.obuf.read 5 = some 0xFD#8 := by
  refine ⟨⟨rfl, ?_, rfl, ?_⟩, ?_, ?_, ?_, ?_⟩ <;> decide +kernel

end Sys2Proof.Tests
end

section
/-! PROOFS. The command encoding (spec/30_encoding.md): the opcode map R50, the reserved words R51 and the issue of a
command R55. First the decoder and the encoder as inverses, then the CMD write and the engine's turn, then the
statements. -/

namespace Sys2Proof.Proofs

open Sys2Proof Sys2Proof.Machine Sys2Proof.Claims

/-! ## The decoder and the encoder -/

/-- The numbers of `opcodes` are the command words of the table's rows. -/
theorem opcodes_eq_map_rowOpcode : opcodes = opcodeTable.map fun r => (rowOpcode r).toNat := rfl

/-- Every row's command has the row's word as its encoding. -/
theorem encode_instr_of_mem_opcodeTable : ∀ r ∈ opcodeTable, encode r.instr = rowOpcode r := by decide

/-- A word of no row is reserved. -/
theorem decode_of_notMem_opcodes {w : Byte} (h : w.toNat ∉ opcodes) : decode w = .reserved w := by
  have hnone : opcodeTable.find? (fun r => rowOpcode r == w) = none := by
    rw [List.find?_eq_none]
    intro r hr hw
    rw [beq_iff_eq] at hw
    exact h (opcodes_eq_map_rowOpcode ▸ hw ▸ List.mem_map_of_mem hr)
  rw [decode, hnone]

/-- Decoding keeps the whole word: it is the encoding of the command it stands for. -/
@[simp] theorem encode_decode (w : Byte) : encode (decode w) = w := by
  unfold decode
  split
  case h_1 r hr =>
    rw [encode_instr_of_mem_opcodeTable r (List.mem_of_find?_eq_some hr)]
    simpa using List.find?_some hr
  case h_2 => rfl

/-- The words outside the opcode map are R51's five ranges. -/
theorem notMem_opcodes_iff (w : Byte) :
    w.toNat ∉ opcodes ↔ w.toNat = 0 ∨ (0x05 ≤ w.toNat ∧ w.toNat ≤ 0x10) ∨ (0x13 ≤ w.toNat ∧ w.toNat ≤ 0x20) ∨
      (0x24 ≤ w.toNat ∧ w.toNat ≤ 0x30) ∨ 0x32 ≤ w.toNat := by
  simp only [opcodes, List.mem_cons, List.not_mem_nil, or_false]
  omega

theorem isReservedWord_iff (w : Byte) : isReservedWord w = true ↔ w.toNat ∉ opcodes := by
  rw [notMem_opcodes_iff]
  simp only [isReservedWord, Bool.or_eq_true, Bool.and_eq_true, beq_iff_eq, decide_eq_true_eq]
  bv_omega

/-- A well-formed command comes back from its word. -/
theorem decode_encode {i : Instr} (h : WellFormed i = true) : decode (encode i) = i := by
  cases i with
  | reserved w => exact decode_of_notMem_opcodes ((isReservedWord_iff w).mp h)
  | _ => rfl

/-- A word stands for a well-formed command exactly when it is that command's own. -/
theorem decode_eq_iff {i : Instr} (h : WellFormed i = true) (w : Byte) : decode w = i ↔ w = encode i := by
  constructor
  · rintro rfl
    exact (encode_decode w).symm
  · rintro rfl
    exact decode_encode h

/-! ## The CMD write and the engine's turn -/

theorem perform_regWrite {n v : Nat} (h : accessRefusal (.regWrite n v) = none) (s : State) :
    perform (.regWrite n v) s = (none, writeRegister n v s) := by
  simp only [perform, h]

/-- No 8-bit value is refused in CMD (20_memory R35). -/
theorem accessRefusal_cmdWrite {op : Nat} (h : op < 256) : accessRefusal (.regWrite 0 op) = none := by
  simp [accessRefusal, regWidth, h]

theorem perform_cmdWrite_busy {op : Nat} (h : op < 256) {s : State} (hb : s.busy = true) :
    perform (.regWrite 0 op) s = (none, rejectCommand s) := by
  rw [perform_regWrite (accessRefusal_cmdWrite h), writeRegister, if_pos hb]

theorem perform_cmdWrite_idle {op : Nat} (h : op < 256) {s : State} (hb : s.busy = false) :
    perform (.regWrite 0 op) s = (none, acceptCommand (BitVec.ofNat 8 op) s) := by
  rw [perform_regWrite (accessRefusal_cmdWrite h), writeRegister, if_neg (by simp [hb])]

theorem step_of_engineTurn {s : State} (hr : s.refusal = none) (ht : engineTurn s = true) :
    step s = exec (decode s.cmd) s := by
  simp only [step, hr, if_pos ht, fetch]

theorem exec_reserved (w : Byte) (s : State) : exec (.reserved w) s = .next (complete .illegal s) := rfl

theorem illegalOnly_complete (s : State) : IllegalOnly s (complete .illegal s) := rfl

/-! ## The statements -/

/-- Settles O3: a word of no row decodes as reserved, its CMD write is issued as any 8-bit value's, and the engine's
step is the bare ILLEGAL completion. -/
theorem reservedWordsCompleteIllegal : Obligations.ReservedWordsCompleteIllegal := by
  intro w
  refine ⟨notMem_opcodes_iff w, fun hw => ⟨decode_of_notMem_opcodes hw, fun s hb => ?_, fun s hc hr ht => ?_⟩⟩
  · rw [perform_cmdWrite_idle w.isLt hb, BitVec.ofNat_toNat, BitVec.setWidth_eq]
  · refine ⟨complete .illegal s, ?_, exec_reserved w s, illegalOnly_complete s⟩
    rw [step_of_engineTurn hr ht, hc, decode_of_notMem_opcodes hw, exec_reserved]

/-- Settles O1: each of the ten commands is decoded from its own word alone, since decoder and encoder are inverse. -/
theorem opcodeMapDecodes : Obligations.OpcodeMapDecodes := by
  refine ⟨fun w => ⟨?_, ?_, ?_, ?_, ?_, ?_, ?_, ?_, ?_, ?_, decode_of_notMem_opcodes⟩, by decide⟩
  all_goals exact decode_eq_iff rfl w

/-- Settles O18, by the two cases of BUSY: the write is rejected or accepted. -/
theorem commandWriteIssues : Obligations.CommandWriteIssues := by
  intro s op hop
  obtain hb | hb := Bool.eq_false_or_eq_true s.busy
  · exact ⟨_, perform_cmdWrite_busy hop hb, fun _ => rfl, fun hf => by simp [hb] at hf⟩
  · exact ⟨_, perform_cmdWrite_idle hop hb, fun ht => by simp [hb] at ht, fun _ => rfl⟩

end Sys2Proof.Proofs
end

section
/-! PROOFS. The endian converter (spec/40_endian.md R63 to R66). First what a command sees of ILEN and IBUF and what it
stores in OBUF, said once in the words of the statements; then the shared body of LEW16 and BEW16; then the
statements. -/

namespace Sys2Proof.Proofs

open Sys2Proof Sys2Proof.Machine Sys2Proof.Claims

/-! ## What a command sees and stores -/

theorem seesLen_operandLen (s : State) : SeesLen s (operandLen s) := ⟨operandLen_lt s, operandLen_stable⟩

/-- The operand sequence and its faults are an engine read (20_memory R41). -/
theorem engineReads_operandBytes (n : Nat) (s : State) :
    EngineReads s n (operandBytes n s) (unwrittenFaults n s) where
  length_eq := operandBytes_length n s
  bytes_eq hs i b hi hb := by rw [operandBytes_getElem? n i s hi, operandByte_stable hs hb]
  faults_eq := mem_unwrittenFaults n s

/-- A byte output stores its bytes from index 0 on and no others (20_memory R42). -/
theorem stores_complete_putBytes (c : Code) (bs : List Byte) (s : State) :
    Stores s (complete c (putBytes bs s)) bs := by
  constructor
  · intro i hi
    simp [memory_read_writeSeq_inside s.obuf i bs hi, hi]
  · intro i hi
    simp [memory_read_writeSeq_outside s.obuf i bs hi]

/-! ## The shared body of LEW16 and BEW16 -/

section
variable {s : State}

/-- Any length but 2 is ILLEGAL, above MAXLEN and below it. -/
theorem wordFromTwo_of_len_ne (f : Byte → Byte → Word) (h : operandLen s ≠ 2) :
    wordFromTwo f s = complete .illegal s := by
  rw [wordFromTwo, requireInput, if_neg h, ite_self]

/-- A length of 2 is within MAXLEN, so `f` of the two bytes goes to WOUT. -/
theorem wordFromTwo_of_len_eq (f : Byte → Byte → Word) (h : operandLen s = 2) :
    wordFromTwo f s = complete .ok (putWord (f (operandByte s 0) (operandByte s 1)) (noteUnwritten 2 s)) := by
  rw [wordFromTwo, requireInput, h]
  rfl

theorem illegalOnly_wordFromTwo (f : Byte → Byte → Word) (h : operandLen s ≠ 2) :
    IllegalOnly s (wordFromTwo f s) := by
  rw [wordFromTwo_of_len_ne f h]
  exact illegalOnly_complete s

/-- With ILEN = 2 the command reads two bytes, and only WOUT, CODE, BUSY and the fault record change. -/
theorem wordFromTwo_reads (f : Byte → Byte → Word) (h : operandLen s = 2) :
    ∃ (b0 b1 : Byte) (fs : List Fault), EngineReads s 2 [b0, b1] fs ∧
      wordFromTwo f s = { s with code := 0x0#4, busy := false, wout := f b0 b1, faults := s.faults ++ fs,
                                 draws := (wordFromTwo f s).draws } := by
  refine ⟨operandByte s 0, operandByte s 1, unwrittenFaults 2 s, engineReads_operandBytes 2 s, ?_⟩
  rw [wordFromTwo_of_len_eq f h]
  rfl

end

/-! ## The statements -/

/-- Settles O4: the output is `bytesLE` of the word the command sees, a two-byte store. -/
theorem w16leStoresLowByteFirst : Obligations.W16leStoresLowByteFirst :=
  ⟨decode_encode (i := .w16le) rfl, fun s =>
    ⟨operandWord s, lowByte (operandWord s), highByte (operandWord s), _, operandWord_stable, rfl,
      lowByte_toNat _, highByte_toNat _, stores_complete_putBytes .ok (bytesLE (operandWord s)) s, rfl⟩⟩

/-- Settles O5: the output is `bytesBE` of the word the command sees, a two-byte store. -/
theorem w16beStoresHighByteFirst : Obligations.W16beStoresHighByteFirst :=
  ⟨decode_encode (i := .w16be) rfl, fun s =>
    ⟨operandWord s, highByte (operandWord s), lowByte (operandWord s), _, operandWord_stable, rfl,
      highByte_toNat _, lowByte_toNat _, stores_complete_putBytes .ok (bytesBE (operandWord s)) s, rfl⟩⟩

/-- Settles O6, by the two cases of the shared body with `wordLE` as the word of the two bytes. -/
theorem lew16ReadsLowByteFirst : Obligations.Lew16ReadsLowByteFirst := by
  refine ⟨decode_encode (i := .lew16) rfl, fun s => ⟨operandLen s, wordFromTwo wordLE s, seesLen_operandLen s, rfl,
    illegalOnly_wordFromTwo wordLE, fun h => ?_⟩⟩
  obtain ⟨b0, b1, fs, hreads, hnext⟩ := wordFromTwo_reads wordLE h
  exact ⟨b0, b1, wordLE b0 b1, fs, hreads, wordLE_toNat b0 b1, hnext⟩

/-- Settles O7, by the two cases of the shared body with `wordBE` as the word of the two bytes. -/
theorem bew16ReadsHighByteFirst : Obligations.Bew16ReadsHighByteFirst := by
  refine ⟨decode_encode (i := .bew16) rfl, fun s => ⟨operandLen s, wordFromTwo wordBE s, seesLen_operandLen s, rfl,
    illegalOnly_wordFromTwo wordBE, fun h => ?_⟩⟩
  obtain ⟨b0, b1, fs, hreads, hnext⟩ := wordFromTwo_reads wordBE h
  exact ⟨b0, b1, wordBE b0 b1, fs, hreads, wordBE_toNat b0 b1, hnext⟩

end Sys2Proof.Proofs
end

section
/-! PROOFS. The command H2B (spec/41_hex_codec.md R69 to R72). First the two cases of RequireInput, which every command
with an input shares; then the model's whitespace set and digit values in the words of the statements; then the bytes of
the digit pairs and H2B's three outcomes; then the statement. -/

namespace Sys2Proof.Proofs

open Sys2Proof Sys2Proof.Machine Sys2Proof.Claims

/-! ## The cases of RequireInput -/

theorem requireInput_of_maxLen_lt {s : State} (go : Nat → State) (h : Config.maxLen < operandLen s) :
    requireInput s go = complete .illegal s := by
  obtain ⟨-, hillegal⟩ | ⟨hle, -⟩ := requireInput_cases s go
  · exact hillegal
  · omega

theorem requireInput_of_le_maxLen {s : State} (go : Nat → State) (h : operandLen s ≤ Config.maxLen) :
    requireInput s go = go (operandLen s) := by
  obtain ⟨hlt, -⟩ | ⟨-, hgo⟩ := requireInput_cases s go
  · omega
  · exact hgo

/-! ## Whitespace and digits -/

theorem isWhitespace_eq_contains (c : Byte) :
    isWhitespace c = [0x09, 0x0A, 0x0B, 0x0C, 0x0D, 0x20].contains c.toNat := by
  rw [Bool.eq_iff_iff]
  simp only [isWhitespace, Bool.or_eq_true, beq_iff_eq, List.contains_iff_mem, List.mem_cons, List.not_mem_nil,
    or_false]
  bv_omega

theorem stripText_eq_strippedText (bs : List Byte) : stripText bs = strippedText bs := by
  simp only [stripText, strippedText, isWhitespace_eq_contains]

/-- R71's digit values, by ranges of codes and by search among the digits, agree on each of the 256 bytes. -/
theorem digitValue_eq_hexval : ∀ c : Byte, digitValue c = (hexval c).map BitVec.toNat := by decide

theorem digitValue_lt {c : Byte} {d : Nat} (h : digitValue c = some d) : d < 16 :=
  List.mem_range.mp (List.mem_of_find?_eq_some h)

theorem isHexDigit_eq_digitValue_isSome (c : Byte) : isHexDigit c = (digitValue c).isSome := by
  rw [digitValue_eq_hexval, Option.isSome_map, isHexDigit]

theorem badHexText_eq_malformedText (t : List Byte) : badHexText t = malformedText t := by
  simp only [badHexText, malformedText, isHexDigit_eq_digitValue_isSome, Option.not_isSome]

theorem malformedText_eq_false_iff (t : List Byte) :
    malformedText t = false ↔ t.length % 2 = 0 ∧ ∀ c ∈ t, ∃ d, digitValue c = some d := by
  simp [malformedText, Option.ne_none_iff_exists']

/-! ## The bytes of the digit pairs -/

/-- The byte of one pair over numbers: two digits never carry out of 8 bits. -/
theorem pairByte_toNat {a b : Byte} {hi lo : Nat} (ha : digitValue a = some hi) (hb : digitValue b = some lo) :
    (16#8 * (hexval a).getD 0#8 + (hexval b).getD 0#8).toNat = 16 * hi + lo := by
  have hhi := digitValue_lt ha
  have hlo := digitValue_lt hb
  rw [digitValue_eq_hexval, Option.map_eq_some_iff] at ha hb
  obtain ⟨x, hx, rfl⟩ := ha
  obtain ⟨y, hy, rfl⟩ := hb
  rw [hx, hy, Option.getD_some, Option.getD_some]
  bv_omega

theorem pairBytes_length : ∀ t : List Byte, (pairBytes t).length = t.length / 2
  | [] => rfl
  | [_] => by simp [pairBytes]
  | hi :: lo :: t => by
    simp only [pairBytes, List.length_cons, pairBytes_length t]
    omega

/-- Byte `k` is made of the digits `2k` and `2k + 1`, high digit first. -/
theorem pairBytes_getElem? : ∀ {t : List Byte} {k : Nat}, (∀ c ∈ t, ∃ d, digitValue c = some d) →
    k < (pairBytes t).length →
    ∃ hi lo, t[2 * k]?.bind digitValue = some hi ∧ t[2 * k + 1]?.bind digitValue = some lo ∧
      (pairBytes t)[k]?.map BitVec.toNat = some (16 * hi + lo)
  | [], _, _, hk => by simp [pairBytes] at hk
  | [_], _, _, hk => by simp [pairBytes] at hk
  | a :: b :: t, k, h, hk => by
    simp only [List.forall_mem_cons] at h
    obtain ⟨⟨hi, ha⟩, ⟨lo, hb⟩, ht⟩ := h
    cases k with
    | zero => exact ⟨hi, lo, ha, hb, congrArg some (pairByte_toNat ha hb)⟩
    | succ k => exact pairBytes_getElem? (t := t) (k := k) ht (Nat.lt_of_succ_lt_succ hk)

/-! ## The outcomes of H2B -/

/-- The text the command decodes: its input without the whitespace. -/
def h2bText (s : State) : List Byte := strippedText (operandBytes (operandLen s) s)

section
variable {s : State}

theorem exec_h2b_of_maxLen_lt (h : Config.maxLen < operandLen s) : exec .h2b s = .next (complete .illegal s) :=
  congrArg _ (requireInput_of_maxLen_lt _ h)

theorem exec_h2b_of_malformed (h : operandLen s ≤ Config.maxLen) (ht : malformedText (h2bText s) = true) :
    exec .h2b s =
      .next (complete .formatError (forgetObuf (dropOutput (noteUnwritten (operandLen s) s)))) := by
  rw [h2bText, ← stripText_eq_strippedText, ← badHexText_eq_malformedText] at ht
  exact congrArg _ ((requireInput_of_le_maxLen _ h).trans (if_pos ht))

theorem exec_h2b_of_wellformed (h : operandLen s ≤ Config.maxLen) (ht : malformedText (h2bText s) = false) :
    exec .h2b s =
      .next (complete .ok (putBytes (pairBytes (h2bText s)) (noteUnwritten (operandLen s) s))) := by
  rw [h2bText, ← stripText_eq_strippedText] at ht ⊢
  rw [← badHexText_eq_malformedText] at ht
  exact congrArg _ ((requireInput_of_le_maxLen _ h).trans (if_neg (by simp [ht])))

/-- H2B's output is at most half its input, so OLEN holds its length. -/
theorem lenWord_pairBytes_h2bText :
    lenWord (pairBytes (h2bText s)).length = BitVec.ofNat 16 (pairBytes (h2bText s)).length := by
  have hle := pairBytes_length_le (h2bText s)
  have hstrip : (h2bText s).length ≤ (operandBytes (operandLen s) s).length := List.length_filter_le _ _
  rw [operandBytes_length] at hstrip
  have hlen := operandLen_lt s
  exact if_pos (by omega)

end

/-! ## The statement -/

/-- Settles O8, by H2B's three outcomes: ILEN above MAXLEN, a malformed text, and a text of digit pairs. -/
theorem h2bDecodesHexText : Obligations.H2bDecodesHexText := by
  refine ⟨decode_encode (i := .h2b) rfl, fun s => ?_⟩
  have hreads := engineReads_operandBytes (operandLen s) s
  by_cases hmax : Config.maxLen < operandLen s
  · exact ⟨operandLen s, _, seesLen_operandLen s, exec_h2b_of_maxLen_lt hmax, fun _ => illegalOnly_complete s,
      fun hle => by omega⟩
  have hle := Nat.le_of_not_lt hmax
  obtain hbad | hgood := Bool.eq_false_or_eq_true (malformedText (h2bText s))
  · exact ⟨operandLen s, _, seesLen_operandLen s, exec_h2b_of_malformed hle hbad, fun h => absurd h hmax,
      fun _ => ⟨_, _, hreads, fun _ => rfl, fun hgood => nomatch hbad.symm.trans hgood⟩⟩
  · refine ⟨operandLen s, _, seesLen_operandLen s, exec_h2b_of_wellformed hle hgood, fun h => absurd h hmax,
      fun _ => ⟨_, _, hreads, fun hbad => (nomatch hbad.symm.trans hgood), fun _ =>
        ⟨pairBytes (h2bText s), pairBytes_length _, fun k hk => ?_,
          stores_complete_putBytes .ok _ (noteUnwritten (operandLen s) s), ?_⟩⟩⟩
    · exact pairBytes_getElem? ((malformedText_eq_false_iff _).mp hgood).2 hk
    · rw [← lenWord_pairBytes_h2bText]
      rfl

end Sys2Proof.Proofs
end

section
/-! PROOFS. The commands CRC and VCRC (spec/42_crc16.md R78, R81). First the two bytes at the end of an input and the
frame check over numbers; then the outcomes of each command; then the statements. -/

namespace Sys2Proof.Proofs

open Sys2Proof Sys2Proof.Machine Sys2Proof.Claims

/-! ## The frame check -/

/-- An input of at least two bytes, with the last two set apart. -/
theorem operandBytes_add_two (k : Nat) (s : State) :
    operandBytes (k + 2) s = operandBytes k s ++ [operandByte s k, operandByte s (k + 1)] := by
  simp [operandBytes, List.range_succ]

/-- R81's comparison of two words, over numbers. -/
theorem verifyFrame_append_eq_decide (p : List Byte) (lo hi : Byte) :
    verifyFrame (p ++ [lo, hi]) = decide ((crc16 p).toNat = lo.toNat + 256 * hi.toNat) := by
  rw [verifyFrame_append, ← wordLE_toNat, Bool.eq_iff_iff, beq_iff_eq, decide_eq_true_iff, BitVec.toNat_inj]

/-! ## The outcomes of CRC and VCRC -/

section
variable {s : State}

theorem exec_crc_of_maxLen_lt (h : Config.maxLen < operandLen s) : exec .crc s = .next (complete .illegal s) :=
  congrArg _ (requireInput_of_maxLen_lt _ h)

theorem exec_crc_of_le_maxLen (h : operandLen s ≤ Config.maxLen) :
    exec .crc s =
      .next (complete .ok (putWord (crc16 (operandBytes (operandLen s) s)) (noteUnwritten (operandLen s) s))) :=
  congrArg _ (requireInput_of_le_maxLen _ h)

theorem exec_vcrc_of_maxLen_lt (h : Config.maxLen < operandLen s) : exec .vcrc s = .next (complete .illegal s) :=
  congrArg _ (requireInput_of_maxLen_lt _ h)

/-- Below two bytes, which MAXLEN always allows, there is no CRC to check and nothing is read. -/
theorem exec_vcrc_of_len_lt_two (h : operandLen s < 2) :
    exec .vcrc s = .next (complete .ok (putFlag false s)) := by
  have hle : operandLen s ≤ Config.maxLen := by have := maxLen_bounds; omega
  exact congrArg _ ((requireInput_of_le_maxLen _ hle).trans (if_pos h))

/-- From two bytes on, FLAG is the check of the first `k` bytes against the two after them. -/
theorem exec_vcrc_of_len_eq_add_two {k : Nat} (hk : operandLen s = k + 2) (h : operandLen s ≤ Config.maxLen) :
    exec .vcrc s =
      .next (complete .ok (putFlag
        (decide ((crc16 (operandBytes k s)).toNat = (operandByte s k).toNat + 256 * (operandByte s (k + 1)).toNat))
        (noteUnwritten (k + 2) s))) := by
  rw [← verifyFrame_append_eq_decide, ← operandBytes_add_two, ← hk]
  exact congrArg _ ((requireInput_of_le_maxLen _ h).trans (if_neg (by omega)))

end

/-! ## The statements -/

/-- Settles O10, by CRC's two outcomes: ILEN above MAXLEN, and the word result. -/
theorem crcGoesToWout : Obligations.CrcGoesToWout := by
  refine ⟨decode_encode (i := .crc) rfl, fun s => ?_⟩
  obtain hmax | hle := Nat.lt_or_ge Config.maxLen (operandLen s)
  · exact ⟨operandLen s, _, seesLen_operandLen s, exec_crc_of_maxLen_lt hmax, fun _ => illegalOnly_complete s,
      fun hle => absurd hmax (Nat.not_lt.mpr hle)⟩
  · exact ⟨operandLen s, _, seesLen_operandLen s, exec_crc_of_le_maxLen hle,
      fun hmax => absurd hmax (Nat.not_lt.mpr hle),
      fun _ => ⟨_, _, engineReads_operandBytes (operandLen s) s, rfl⟩⟩

/-- Settles O12, by VCRC's three outcomes: ILEN above MAXLEN, ILEN below two, and a frame with its last two bytes set
apart. -/
theorem vcrcSetsFlag : Obligations.VcrcSetsFlag := by
  refine ⟨decode_encode (i := .vcrc) rfl, fun s => ?_⟩
  have hbounds := maxLen_bounds
  obtain hmax | hle := Nat.lt_or_ge Config.maxLen (operandLen s)
  · exact ⟨operandLen s, _, seesLen_operandLen s, exec_vcrc_of_maxLen_lt hmax, fun _ => illegalOnly_complete s,
      fun hlt => by omega, fun _ hle => by omega⟩
  obtain hlt | htwo := Nat.lt_or_ge (operandLen s) 2
  · exact ⟨operandLen s, _, seesLen_operandLen s, exec_vcrc_of_len_lt_two hlt, fun hmax => by omega, fun _ => rfl,
      fun htwo => by omega⟩
  · obtain ⟨k, hk⟩ := Nat.exists_eq_add_of_le' htwo
    have hreads := engineReads_operandBytes (k + 2) s
    rw [operandBytes_add_two, ← hk] at hreads
    exact ⟨operandLen s, _, seesLen_operandLen s, exec_vcrc_of_len_eq_add_two hk hle, fun hmax => by omega,
      fun hlt => by omega, fun _ _ => ⟨_, _, _, _, hreads, hk ▸ rfl⟩⟩

end Sys2Proof.Proofs
end

section
/-! PROOFS. The command MBAP (spec/43_mbap.md R85 to R90). First the frame over numbers; then MBAP's three outcomes;
then what each step does to TID (R88); then the statements. -/

namespace Sys2Proof.Proofs

open Sys2Proof Sys2Proof.Machine Sys2Proof.Claims

/-! ## The frame -/

/-- R85 to R87 over numbers: the header is TID, the protocol id 0 and LEN, each high byte first. -/
theorem mbapFrame_map_toNat (tid : Word) {p : List Byte} {n : Nat} (hlen : p.length = n) (hn : n < 65535) :
    (mbapFrame tid p).map BitVec.toNat =
      [tid.toNat / 256, tid.toNat % 256, 0, 0, (n + 1) / 256, (n + 1) % 256] ++ p.map BitVec.toNat := by
  have hfield : (BitVec.ofNat 16 (n + 1)).toNat = n + 1 := by
    rw [BitVec.toNat_ofNat]
    exact Nat.mod_eq_of_lt (by omega)
  simp [mbapFrame, bytesBE, highByte_toNat, lowByte_toNat, hlen, hfield, Config.mbapProtocolId]

/-- TID moves on by one over numbers, wrapping at 16 bits (R88). -/
theorem advanceTid_tid_toNat (s : State) : (advanceTid s).tid.toNat = (s.tid.toNat + 1) % 65536 := by
  rw [advanceTid_tid, BitVec.toNat_add]
  rfl

/-! ## The outcomes of MBAP -/

/-- The state after an MBAP that succeeds: its input framed into OBUF, and TID moved on (R89). -/
def mbapFramed (s : State) : State :=
  complete .ok (advanceTid
    (putBytes (mbapFrame s.tid (operandBytes (operandLen s) s)) (noteUnwritten (operandLen s) s)))

section
variable {s : State}

theorem exec_mbap_of_maxLen_lt (h : Config.maxLen < operandLen s) : exec .mbap s = .next (complete .illegal s) :=
  congrArg _ (requireInput_of_maxLen_lt _ h)

theorem exec_mbap_of_pdu_too_large (h : 252 < operandLen s) (hle : operandLen s ≤ Config.maxLen) :
    exec .mbap s = .next (complete .frameTooLarge (dropOutput s)) :=
  congrArg _ ((requireInput_of_le_maxLen _ hle).trans (if_pos h))

/-- A PDU of at most 252 bytes is within MAXLEN, and goes out. -/
theorem exec_mbap_of_pdu_fits (h : operandLen s ≤ 252) : exec .mbap s = .next (mbapFramed s) := by
  have hle : operandLen s ≤ Config.maxLen := by have := maxLen_bounds; omega
  exact congrArg _ ((requireInput_of_le_maxLen _ hle).trans (if_neg (Nat.not_lt.mpr h)))

end

/-- MBAP completes as ILLEGAL, as FRAME_TOO_LARGE, or with its frame sent. -/
theorem exec_mbap_cases (s : State) :
    (Config.maxLen < operandLen s ∧ exec .mbap s = .next (complete .illegal s)) ∨
    (252 < operandLen s ∧ operandLen s ≤ Config.maxLen ∧
      exec .mbap s = .next (complete .frameTooLarge (dropOutput s))) ∨
    (operandLen s ≤ 252 ∧ exec .mbap s = .next (mbapFramed s)) := by
  obtain hmax | hle := Nat.lt_or_ge Config.maxLen (operandLen s)
  · exact .inl ⟨hmax, exec_mbap_of_maxLen_lt hmax⟩
  obtain hlarge | hfits := Nat.lt_or_ge 252 (operandLen s)
  · exact .inr (.inl ⟨hlarge, hle, exec_mbap_of_pdu_too_large hlarge hle⟩)
  · exact .inr (.inr ⟨hfits, exec_mbap_of_pdu_fits hfits⟩)

/-- TID's move touches no OBUF byte, so the frame stands there as it was put. -/
theorem stores_mbapFramed (s : State) :
    Stores s (mbapFramed s) (mbapFrame s.tid (operandBytes (operandLen s) s)) :=
  stores_complete_putBytes .ok _ (noteUnwritten (operandLen s) s)

theorem mbapFramed_tid_toNat (s : State) : (mbapFramed s).tid.toNat = (s.tid.toNat + 1) % 65536 :=
  advanceTid_tid_toNat _

/-- What an MBAP that succeeds changes besides the OBUF bytes of its frame. -/
theorem mbapFramed_eq {s : State} (h : operandLen s ≤ 252) :
    mbapFramed s =
      { s with code := 0x0#4, busy := false, opres := true, olen := BitVec.ofNat 16 (operandLen s + 6),
               obuf := (mbapFramed s).obuf, tid := BitVec.ofNat 16 ((s.tid.toNat + 1) % 65536),
               faults := s.faults ++ unwrittenFaults (operandLen s) s, draws := (mbapFramed s).draws } := by
  have holen : (mbapFramed s).olen = BitVec.ofNat 16 (operandLen s + 6) := by
    change lenWord (mbapFrame s.tid (operandBytes (operandLen s) s)).length = _
    rw [mbapFrame_length, operandBytes_length]
    exact if_pos (by omega)
  have htid : (mbapFramed s).tid = BitVec.ofNat 16 ((s.tid.toNat + 1) % 65536) := by
    rw [← mbapFramed_tid_toNat, BitVec.ofNat_toNat, BitVec.setWidth_eq]
  rw [← holen, ← htid]
  rfl

/-! ## What a step does to TID -/

/-- A step is the engine's, of the command CMD stands for, or the host's. -/
theorem step_cases {s t : State} (h : step s = .next t) :
    (engineTurn s = true ∧ exec (decode s.cmd) s = .next t) ∨ (engineTurn s = false ∧ hostStep s = t) := by
  cases hr : s.refusal with
  | some r => simp [step, hr] at h
  | none =>
    obtain ht | hf := Bool.eq_false_or_eq_true (engineTurn s)
    · exact .inl ⟨ht, by rw [← step_of_engineTurn hr ht, h]⟩
    · exact .inr ⟨hf, by simpa [step, hr, hf] using h⟩

theorem requireInput_tid {s : State} {go : Nat → State} (h : ∀ n, (go n).tid = s.tid) :
    (requireInput s go).tid = s.tid := by
  obtain ⟨-, hillegal⟩ | ⟨-, hgo⟩ := requireInput_cases s go
  · rw [hillegal, complete_tid]
  · rw [hgo, h]

theorem wordFromTwo_tid (f : Byte → Byte → Word) (s : State) : (wordFromTwo f s).tid = s.tid :=
  requireInput_tid fun n => by split <;> simp

/-- MBAP is the one command that can change TID. -/
theorem exec_tid_of_ne_mbap {i : Instr} (hi : i ≠ .mbap) {s t : State} (h : exec i s = .next t) : t.tid = s.tid := by
  cases i <;> cases h
  case mbap => exact absurd rfl hi
  case w16le => rfl
  case w16be => rfl
  case reserved => rfl
  case lew16 => exact wordFromTwo_tid wordLE s
  case bew16 => exact wordFromTwo_tid wordBE s
  case crc => exact requireInput_tid fun n => rfl
  case acrc => exact requireInput_tid fun n => rfl
  case vcrc => exact requireInput_tid fun n => by split <;> simp
  case h2b => exact requireInput_tid fun n => by dsimp only; split <;> simp
  case b2h =>
    split
    · exact requireInput_tid fun n => rfl
    · rfl

/-- MBAP succeeds with its frame sent, or completes with an error and keeps TID. -/
theorem exec_mbap_ok_or_tid {s t : State} (h : exec .mbap s = .next t) :
    (t.code = 0x0#4 ∧ t = mbapFramed s) ∨ (t.code ≠ 0x0#4 ∧ t.tid = s.tid) := by
  obtain ⟨-, hnext⟩ | ⟨-, -, hnext⟩ | ⟨-, hnext⟩ := exec_mbap_cases s <;> rw [hnext] at h <;> cases h
  · exact .inr ⟨(by decide : codeBits .illegal ≠ 0x0#4), rfl⟩
  · exact .inr ⟨(by decide : codeBits .frameTooLarge ≠ 0x0#4), rfl⟩
  · exact .inl ⟨rfl, rfl⟩

/-- The first two bytes of a frame sent are TID as it stood, high byte first. -/
theorem mbapFramed_emits_tid (s : State) :
    ((mbapFramed s).obuf.read 0).map BitVec.toNat = some (s.tid.toNat / 256) ∧
      ((mbapFramed s).obuf.read 1).map BitVec.toNat = some (s.tid.toNat % 256) := by
  obtain ⟨hinside, -⟩ := stores_mbapFramed s
  rw [mbapFrame_length] at hinside
  rw [hinside 0 (by omega), hinside 1 (by omega), ← highByte_toNat, ← lowByte_toNat]
  exact ⟨rfl, rfl⟩

/-- No host access changes TID. -/
theorem performEffect_tid {a : HostAccess} {s t : State} (h : PerformEffect a s t) : t.tid = s.tid := by
  cases h <;> simp

/-- A host step that is no reset keeps TID. -/
theorem hostStep_tid {s : State} (h : s.inputs.head? ≠ some .reset) : (hostStep s).tid = s.tid := by
  obtain ⟨-, hidle⟩ | ⟨op, rest, u, hin, rfl, ⟨rfl, -⟩ | ⟨a, ops, w, -, heffect, hnext⟩⟩ := hostStep_effect s
  · rw [hidle]
  · exact absurd (by rw [hin]; rfl) h
  · rw [hnext, pushInputs_tid, performEffect_tid heffect]

theorem hostStep_tid_of_reset {s : State} (h : s.inputs.head? = some .reset) : (hostStep s).tid = 0#16 := by
  obtain ⟨rest, hin⟩ := List.head?_eq_some_iff.mp h
  rw [hostStep, hin]
  rfl

/-! ## The statements -/

/-- Settles O13, by MBAP's three outcomes: ILEN above MAXLEN, a PDU of more than 252 bytes, and a PDU that is framed. -/
theorem mbapBuildsFrame : Obligations.MbapBuildsFrame := by
  refine ⟨decode_encode (i := .mbap) rfl, fun s => ?_⟩
  have hbounds := maxLen_bounds
  obtain ⟨hmax, hnext⟩ | ⟨hlarge, hle, hnext⟩ | ⟨hfits, hnext⟩ := exec_mbap_cases s
  · exact ⟨operandLen s, _, seesLen_operandLen s, hnext, fun _ => illegalOnly_complete s,
      fun _ hle => by omega, fun hfits => by omega⟩
  · exact ⟨operandLen s, _, seesLen_operandLen s, hnext, fun hmax => by omega,
      fun _ _ => rfl, fun hfits => by omega⟩
  · exact ⟨operandLen s, _, seesLen_operandLen s, hnext, fun hmax => by omega, fun hlarge => by omega,
      fun _ => ⟨_, _, _, engineReads_operandBytes (operandLen s) s,
        mbapFrame_map_toNat s.tid (operandBytes_length _ s) (by omega), stores_mbapFramed s, mbapFramed_eq hfits⟩⟩

/-- Settles O30, by who makes the step: the engine with MBAP, the engine with another command, or the host. -/
theorem tidHistory : Obligations.TidHistory := by
  intro s t h
  obtain ⟨ht, hexec⟩ | ⟨hf, rfl⟩ := step_cases h
  · have hreset : ¬ TakesReset s := fun ⟨hf, _⟩ => nomatch ht.symm.trans hf
    by_cases hcmd : s.cmd = 0x31#8
    · rw [(decode_eq_iff (i := .mbap) rfl _).mpr hcmd] at hexec
      obtain ⟨hok, rfl⟩ | ⟨herr, htid⟩ := exec_mbap_ok_or_tid hexec
      · obtain ⟨hhigh, hlow⟩ := mbapFramed_emits_tid s
        exact ⟨fun _ _ _ => ⟨hhigh, hlow, mbapFramed_tid_toNat s⟩, fun hr => absurd hr hreset,
          fun hno => absurd ⟨ht, hcmd, hok⟩ hno⟩
      · exact ⟨fun _ _ hok => absurd hok herr, fun hr => absurd hr hreset, fun _ _ => htid⟩
    · have hother : decode s.cmd ≠ .mbap := mt (decode_eq_iff (i := .mbap) rfl _).mp hcmd
      exact ⟨fun _ hmbap => absurd hmbap hcmd, fun hr => absurd hr hreset,
        fun _ _ => exec_tid_of_ne_mbap hother hexec⟩
  · exact ⟨fun ht => (nomatch hf.symm.trans ht), fun ⟨_, hr⟩ => hostStep_tid_of_reset hr,
      fun _ hno => hostStep_tid fun hr => hno ⟨hf, hr⟩⟩

end Sys2Proof.Proofs
end

section
/-! PROOFS. BUSYERR (spec/60_exceptions.md R99). First which accesses are refused, and the kinds of step in the words of
the statements, which the proofs about every step share; then what each kind does to BUSYERR; then the statement. -/

namespace Sys2Proof.Proofs

open Sys2Proof Sys2Proof.Machine Sys2Proof.Claims

/-! ## The kinds of step -/

/-- The accesses that are not refused are those inside the host interface (60_exceptions R103). -/
theorem accessRefusal_eq_none_iff (a : HostAccess) : accessRefusal a = none ↔ ¬ OutsideInterface a := by
  cases a with
  | regWrite n v =>
    by_cases hn : 8 ≤ n
    · simp [accessRefusal, OutsideInterface, hn]
    · interval_cases n <;> simp [accessRefusal, OutsideInterface, regWidth, regWidths]
  | regRead n => simp [accessRefusal, OutsideInterface]
  | ibufWrite i b => by_cases hi : i < Config.maxLen <;> simp [accessRefusal, OutsideInterface, hi]
  | ibufRead i => simp [accessRefusal, OutsideInterface]
  | obufRead i => simp [accessRefusal, OutsideInterface, oMaxLen_eq]

/-- A step is the engine's, idle, a reset, or one host access, with some inputs put first; only the last makes an access
in the sense of the statements. -/
theorem step_kinds {s t : State} (h : step s = .next t) :
    (engineTurn s = true ∧ hostAccess s = none ∧ exec (decode s.cmd) s = .next t) ∨
    (engineTurn s = false ∧ hostAccess s = none ∧ ¬ TakesReset s ∧ t = s) ∨
    (TakesReset s ∧ hostAccess s = none ∧ t = resetBlock (taken s)) ∨
    (engineTurn s = false ∧ ¬ TakesReset s ∧ ∃ a ops w, hostAccess s = some a ∧
      PerformEffect a (taken s) w ∧ t = pushInputs ops w) := by
  obtain ⟨ht, hexec⟩ | ⟨hf, rfl⟩ := step_cases h
  · exact .inl ⟨ht, if_pos ht, hexec⟩
  have haccess : hostAccess s = s.inputs.head?.bind nextAccess := if_neg (by simp [hf])
  obtain ⟨hin, hidle⟩ | ⟨op, rest, u, hin, rfl, ⟨rfl, hnext⟩ | ⟨a, ops, w, ha, heffect, hnext⟩⟩ := hostStep_effect s
  · refine .inr (.inl ⟨hf, ?_, fun ⟨_, hr⟩ => ?_, hidle⟩)
    · rw [haccess, hin]; rfl
    · simp [hin] at hr
  · refine .inr (.inr (.inl ⟨⟨hf, ?_⟩, ?_, ?_⟩))
    · rw [hin]; rfl
    · rw [haccess, hin]; rfl
    · rw [hnext, taken, hin]; rfl
  · refine .inr (.inr (.inr ⟨hf, fun ⟨_, hr⟩ => ?_, a, ops, w, ?_, ?_, hnext⟩))
    · rw [hin] at hr
      cases hr
      cases ha
    · rw [haccess, hin]; exact ha
    · rw [taken, hin]; exact heffect

/-! ## What each kind does to BUSYERR -/

/-- What holds of the ILLEGAL completion and of the command going on with its ILEN holds after RequireInput. -/
theorem requireInput_induction {P : State → Prop} {s : State} {go : Nat → State} (hillegal : P (complete .illegal s))
    (hgo : P (go (operandLen s))) : P (requireInput s go) := by
  obtain ⟨-, h⟩ | ⟨-, h⟩ := requireInput_cases s go
  · exact h ▸ hillegal
  · exact h ▸ hgo

theorem exec_busyerr {i : Instr} {s t : State} (h : exec i s = .next t) : t.busyerr = s.busyerr := by
  have hinput {go : Nat → State} (hgo : (go (operandLen s)).busyerr = s.busyerr) :
      (requireInput s go).busyerr = s.busyerr :=
    requireInput_induction (P := fun t => t.busyerr = s.busyerr) rfl hgo
  cases i <;> cases h
  case w16le | w16be | reserved => rfl
  case crc | acrc => exact hinput rfl
  case lew16 | bew16 | vcrc | mbap => exact hinput (by split <;> rfl)
  case h2b => exact hinput (by dsimp only; split <;> rfl)
  case b2h =>
    split
    · exact hinput rfl
    · rfl

/-- A host access is a rejected CMD write, an accepted one, or one of another kind, which keeps BUSYERR. -/
theorem performEffect_busyerr {a : HostAccess} {s t : State} (h : PerformEffect a s t) :
    (∃ op < 256, a = .regWrite 0 op ∧ s.busy = true ∧ t = rejectCommand s) ∨
    (∃ op < 256, a = .regWrite 0 op ∧ s.busy = false ∧ t.busyerr = false) ∨
    ((∀ op < 256, a ≠ .regWrite 0 op) ∧ t.busyerr = s.busyerr) := by
  have hfits {op : Nat} (hr : accessRefusal (.regWrite 0 op) = none) : op < 256 := by
    simpa [accessRefusal, regWidth] using hr
  cases h with
  | rejected op hr ha hb => subst ha; exact .inl ⟨op, hfits hr, rfl, hb, rfl⟩
  | accepted op hr ha hb => subst ha; exact .inr (.inl ⟨op, hfits hr, rfl, hb, rfl⟩)
  | refused r hr =>
    refine .inr (.inr ⟨?_, rfl⟩)
    rintro op hop rfl
    simp [accessRefusal_cmdWrite hop] at hr
  | _ =>
    refine .inr (.inr ⟨?_, by simp⟩)
    rintro op hop rfl
    simp_all

/-! ## The statement -/

section
variable {s t : State}

/-- A reset is no host access. -/
theorem hostAccess_of_takesReset (h : TakesReset s) : hostAccess s = none := by
  obtain ⟨hf, hr⟩ := h
  simp [hostAccess, hf, hr, nextAccess]

theorem not_acceptsCommand_of_rejectsCommand (h : RejectsCommand s) : ¬ AcceptsCommand s :=
  fun ⟨hidle, _⟩ => nomatch hidle.symm.trans h.1

/-- A step that makes no CMD write of eight bits neither rejects nor accepts one. -/
theorem neither_rejects_nor_accepts (h : ∀ op < 256, hostAccess s ≠ some (.regWrite 0 op)) :
    ¬ RejectsCommand s ∧ ¬ AcceptsCommand s :=
  ⟨fun ⟨_, op, hop, ha⟩ => h op hop ha, fun ⟨_, op, hop, ha⟩ => h op hop ha⟩

/-- Every step is of one of R99's four kinds, with its effect on BUSYERR. -/
theorem step_busyerr (h : step s = .next t) :
    (RejectsCommand s ∧ t = { s with busyerr := true, inputs := t.inputs, delay := t.delay }) ∨
    (AcceptsCommand s ∧ t.busyerr = false) ∨ (TakesReset s ∧ t.busyerr = false) ∨
    ((¬ RejectsCommand s ∧ ¬ AcceptsCommand s) ∧ ¬ TakesReset s ∧ t.busyerr = s.busyerr) := by
  obtain ⟨ht, ha, hexec⟩ | ⟨-, ha, hno, rfl⟩ | ⟨hr, -, rfl⟩ | ⟨-, hno, a, ops, w, ha, heffect, rfl⟩ := step_kinds h
  · have hno : ¬ TakesReset s := fun ⟨hf, _⟩ => nomatch hf.symm.trans ht
    exact .inr (.inr (.inr ⟨neither_rejects_nor_accepts (by simp [ha]), hno, exec_busyerr hexec⟩))
  · exact .inr (.inr (.inr ⟨neither_rejects_nor_accepts (by simp [ha]), hno, rfl⟩))
  · exact .inr (.inr (.inl ⟨hr, rfl⟩))
  obtain ⟨op, hop, rfl, hb, rfl⟩ | ⟨op, hop, rfl, hb, hclear⟩ | ⟨hother, hkeep⟩ := performEffect_busyerr heffect
  · exact .inl ⟨⟨hb, op, hop, ha⟩, rfl⟩
  · exact .inr (.inl ⟨⟨hb, op, hop, ha⟩, hclear⟩)
  · exact .inr (.inr (.inr ⟨neither_rejects_nor_accepts (by simpa [ha] using hother), hno, hkeep⟩))

end

/-- Settles O19: the four kinds of step exclude each other, and each has its effect. -/
theorem busyerrHistory : Obligations.BusyerrHistory := by
  intro s t h
  have hra := not_acceptsCommand_of_rejectsCommand (s := s)
  have hreset (hr : TakesReset s) : ¬ RejectsCommand s ∧ ¬ AcceptsCommand s :=
    neither_rejects_nor_accepts (by simp [hostAccess_of_takesReset hr])
  have hkinds := step_busyerr h
  tauto

end Sys2Proof.Proofs
end

section
/-! PROOFS. The fault record (spec/60_exceptions.md R101, R102). First the faults of a command, those of the bytes it
reads; then the faults of a host access; then the statement. -/

namespace Sys2Proof.Proofs

open Sys2Proof Sys2Proof.Machine Sys2Proof.Claims

/-! ## The faults of a command -/

section
variable {s : State}

/-- A command that reads no byte records no fault. -/
theorem faults_eq_append_unwrittenFaults_zero : s.faults = s.faults ++ unwrittenFaults 0 s :=
  (List.append_nil _).symm

/-- A command that reads `k` bytes after RequireInput records their faults, and above MAXLEN it reads nothing. -/
theorem requireInput_faults {go : Nat → State} {k : Nat}
    (hgo : (go (operandLen s)).faults = s.faults ++ unwrittenFaults k s) :
    (requireInput s go).faults = s.faults ++ unwrittenFaults (if operandLen s ≤ Config.maxLen then k else 0) s := by
  obtain ⟨hmax, h⟩ | ⟨hle, h⟩ := requireInput_cases s go
  · rw [h, if_neg (Nat.not_le.mpr hmax)]
    exact faults_eq_append_unwrittenFaults_zero
  · rw [h, if_pos hle, hgo]

theorem wordFromTwo_faults (f : Byte → Byte → Word) :
    (wordFromTwo f s).faults = s.faults ++ unwrittenFaults (if operandLen s = 2 then 2 else 0) s := by
  split
  case isTrue h => rw [wordFromTwo_of_len_eq f h]; rfl
  case isFalse h => rw [wordFromTwo_of_len_ne f h]; exact faults_eq_append_unwrittenFaults_zero

theorem exec_b2h_faults {t : State} (h : exec .b2h s = .next t) :
    t.faults = s.faults ++
      unwrittenFaults (if operandPresent s && decide (operandLen s ≤ Config.maxLen) then operandLen s else 0) s := by
  cases h
  cases hp : operandPresent s
  · exact faults_eq_append_unwrittenFaults_zero
  · simpa using requireInput_faults rfl

theorem exec_vcrc_faults {t : State} (h : exec .vcrc s = .next t) :
    t.faults = s.faults ++
      unwrittenFaults (if 2 ≤ operandLen s ∧ operandLen s ≤ Config.maxLen then operandLen s else 0) s := by
  obtain hlt | htwo := Nat.lt_or_ge (operandLen s) 2
  · rw [exec_vcrc_of_len_lt_two hlt] at h
    cases h
    rw [if_neg fun ⟨htwo, _⟩ => Nat.not_le.mpr hlt htwo]
    exact faults_eq_append_unwrittenFaults_zero
  · cases h
    simp only [htwo, true_and]
    exact requireInput_faults (by rw [if_neg (Nat.not_lt.mpr htwo)]; rfl)

theorem exec_mbap_faults {t : State} (h : exec .mbap s = .next t) :
    t.faults = s.faults ++ unwrittenFaults (if operandLen s ≤ 252 then operandLen s else 0) s := by
  have hbounds := maxLen_bounds
  obtain ⟨hmax, hnext⟩ | ⟨hlarge, -, hnext⟩ | ⟨hfits, hnext⟩ := exec_mbap_cases s <;> rw [hnext] at h <;> cases h
  · rw [if_neg (by omega)]; exact faults_eq_append_unwrittenFaults_zero
  · rw [if_neg (by omega)]; exact faults_eq_append_unwrittenFaults_zero
  · rw [if_pos hfits]; rfl

/-- A command records the faults of the bytes it reads, and no others. The word is any, not only the outstanding one. -/
theorem exec_faults {w : Byte} {t : State} (h : exec (decode w) s = .next t) :
    t.faults = s.faults ++ unwrittenFaults (readCount { s with cmd := w }) s := by
  unfold readCount
  cases hi : decode w <;> rw [hi] at h
  case b2h => exact exec_b2h_faults h
  case vcrc => exact exec_vcrc_faults h
  case mbap => exact exec_mbap_faults h
  all_goals cases h
  case w16le | w16be | reserved => exact faults_eq_append_unwrittenFaults_zero
  case lew16 | bew16 => exact wordFromTwo_faults _
  case crc | acrc => exact requireInput_faults rfl
  case h2b => exact requireInput_faults (by dsimp only; split <;> rfl)

end

/-! ## The faults of a host access -/

/-- The two cases of R101 for a host access `a` to the block `s`: a read of an unwritten IBUF byte, and a write of an
operand while a command is outstanding. -/
def HostFault (a : HostAccess) (s : State) (f : Fault) : Prop :=
  (∃ i, a = .ibufRead i ∧ i < Config.maxLen ∧ s.ibuf.read i = none ∧ f = .unwrittenRead i) ∨
  (¬ OutsideInterface a ∧ WritesOperand a ∧ s.busy = true ∧ f = .operandWriteWhileBusy a)

/-- The faults `t` has on record besides those of `s` are exactly those that `P` names. -/
def AddsFaults (s t : State) (P : Fault → Prop) : Prop := ∃ fs, t.faults = s.faults ++ fs ∧ ∀ f, f ∈ fs ↔ P f

theorem addsFaults_none {s t : State} {P : Fault → Prop} (h : t.faults = s.faults) (hP : ∀ f, ¬ P f) :
    AddsFaults s t P := ⟨[], by simp [h], by simpa using hP⟩

/-- A write of an operand inside the interface records its fault exactly while BUSY = 1 (70_reset R116). -/
theorem noteOperandWrite_addsFaults {a : HostAccess} (o : Operand) {s t : State} (hin : ¬ OutsideInterface a)
    (hw : WritesOperand a) (ht : t.faults = (noteOperandWrite a o s).faults) : AddsFaults s t (HostFault a s) := by
  have hread : ∀ i, a ≠ .ibufRead i := by rintro i rfl; exact hw
  rw [noteOperandWrite_faults] at ht
  cases hb : s.busy
  · exact addsFaults_none (by simpa [hb] using ht) (by simp [HostFault, hb, hread])
  · exact ⟨[.operandWriteWhileBusy a], by simpa [hb] using ht, by simp [HostFault, hb, hread, hin, hw]⟩

theorem performEffect_addsFaults {a : HostAccess} {s t : State} (h : PerformEffect a s t) :
    AddsFaults s t (HostFault a s) := by
  have hin := (accessRefusal_eq_none_iff a).mp
  cases h with
  | refused r hr =>
    have hout : OutsideInterface a := by
      by_contra hno
      simp [(accessRefusal_eq_none_iff a).mpr hno] at hr
    refine addsFaults_none rfl ?_
    rintro f (⟨i, rfl, hi, -⟩ | ⟨hno, -⟩)
    · exact absurd hi (Nat.not_lt.mpr hout)
    · exact hno hout
  | exact v hr hread =>
    refine addsFaults_none rfl fun f => ?_
    obtain ⟨n, rfl⟩ | ⟨i, rfl⟩ | ⟨i, b, rfl, hb⟩ := hread
    · simp [HostFault, WritesOperand]
    · simp [HostFault, WritesOperand]
    · simp [HostFault, WritesOperand, hb]
  | unwritten v i hr ha hi =>
    subst ha
    have hlt : i < Config.maxLen := Nat.not_le.mp (hin hr)
    exact ⟨[.unwrittenRead i], rfl, by simp [HostFault, WritesOperand, hlt, hi]⟩
  | rejected op hr ha hb => exact addsFaults_none rfl (by simp [HostFault, WritesOperand, ha])
  | accepted op hr ha hb => exact addsFaults_none rfl (by simp [HostFault, WritesOperand, ha])
  | ilen v hr ha => exact noteOperandWrite_addsFaults .ilen (hin hr) (by simp [ha, WritesOperand]) rfl
  | ipres v hr ha => exact noteOperandWrite_addsFaults .ipres (hin hr) (by simp [ha, WritesOperand]) rfl
  | win v hr ha => exact noteOperandWrite_addsFaults .win (hin hr) (by simp [ha, WritesOperand]) rfl
  | ignored n v hr ha hn => exact addsFaults_none rfl (by simp [HostFault, WritesOperand, ha, hn])
  | ibuf i b hr ha => exact noteOperandWrite_addsFaults (.ibuf i) (hin hr) (by simp [ha, WritesOperand]) rfl

/-! ## The statement -/

/-- Settles O24, by the kinds of step: the engine's command, and the host's access. -/
theorem faultsExactlyAsNamed : Obligations.FaultsExactlyAsNamed := by
  refine ⟨fun u hu ⟨⟨hclean, _⟩, _⟩ => hu hclean, fun s t h => ?_⟩
  obtain ⟨ht, ha, hexec⟩ | ⟨hf, ha, -, rfl⟩ | ⟨⟨hf, -⟩, ha, rfl⟩ | ⟨hf, -, a, ops, w, ha, heffect, rfl⟩ :=
    step_kinds h
  · exact ⟨_, exec_faults hexec, fun f => by simp [ht, ha, mem_unwrittenFaults]⟩
  · exact ⟨[], by simp, by simp [hf, ha]⟩
  · exact ⟨[], by simp [taken], by simp [hf, ha]⟩
  · obtain ⟨fs, hfs, hmem⟩ := performEffect_addsFaults heffect
    exact ⟨fs, hfs, fun f => by simp [hmem, HostFault, hf, ha]; rfl⟩

end Sys2Proof.Proofs
end

section
/-! PROOFS. The order of the completion codes (spec/60_exceptions.md R97). First the code of each command in the order
in which it tests its conditions; then that order against R97's, word by word; then the statement. -/

namespace Sys2Proof.Proofs

open Sys2Proof Sys2Proof.Machine Sys2Proof.Claims

/-! ## The code of each command -/

/-- Every command completes (30_encoding R58). -/
theorem exec_completes (i : Instr) (s : State) : ∃ t, exec i s = .next t := by
  cases i <;> exact ⟨_, rfl⟩

section
variable {s t : State}

/-- RequireInput's test comes before any other of the command. -/
theorem requireInput_code {go : Nat → State} :
    (requireInput s go).code = if Config.maxLen < operandLen s then 0xF#4 else (go (operandLen s)).code := by
  split
  case isTrue h => rw [requireInput_of_maxLen_lt go h]; rfl
  case isFalse h => rw [requireInput_of_le_maxLen go (Nat.le_of_not_lt h)]

theorem wordFromTwo_code (f : Byte → Byte → Word) :
    (wordFromTwo f s).code =
      if Config.maxLen < operandLen s then 0xF#4 else if operandLen s = 2 then 0x0#4 else 0xF#4 := by
  rw [wordFromTwo, requireInput_code]
  split_ifs <;> rfl

/-- An absent input is no error: the output is absent (41_hex_codec R75). -/
theorem exec_b2h_of_absent (h : operandPresent s = false) : exec .b2h s = .next (complete .ok (dropOutput s)) :=
  congrArg _ (if_neg (by simp [h]))

theorem exec_b2h_code (h : exec .b2h s = .next t) :
    t.code = if operandPresent s = false then 0x0#4 else if Config.maxLen < operandLen s then 0xF#4 else 0x0#4 := by
  cases hp : operandPresent s
  · rw [exec_b2h_of_absent hp] at h
    cases h
    rfl
  · cases h
    simp [hp, requireInput_code, codeBits]

theorem exec_h2b_code (h : exec .h2b s = .next t) :
    t.code = if Config.maxLen < operandLen s then 0xF#4 else if malformedText (h2bText s) then 0x1#4 else 0x0#4 := by
  obtain hmax | hle := Nat.lt_or_ge Config.maxLen (operandLen s)
  · rw [exec_h2b_of_maxLen_lt hmax] at h
    cases h
    rw [if_pos hmax]; rfl
  rw [if_neg (Nat.not_lt.mpr hle)]
  obtain hbad | hgood := Bool.eq_false_or_eq_true (malformedText (h2bText s))
  · rw [exec_h2b_of_malformed hle hbad] at h
    cases h
    rw [if_pos hbad]; rfl
  · rw [exec_h2b_of_wellformed hle hgood] at h
    cases h
    rw [if_neg (by simp [hgood])]; rfl

/-- VCRC below two bytes has no error code, as for any other frame (42_crc16 R82). -/
theorem exec_vcrc_code (h : exec .vcrc s = .next t) :
    t.code = if Config.maxLen < operandLen s then 0xF#4 else 0x0#4 := by
  cases h
  simp only [requireInput_code]
  split_ifs <;> rfl

theorem exec_mbap_code (h : exec .mbap s = .next t) :
    t.code = if Config.maxLen < operandLen s then 0xF#4 else if 252 < operandLen s then 0x2#4 else 0x0#4 := by
  have hbounds := maxLen_bounds
  obtain ⟨hmax, hnext⟩ | ⟨hlarge, hle, hnext⟩ | ⟨hfits, hnext⟩ := exec_mbap_cases s <;> rw [hnext] at h <;> cases h
  · rw [if_pos hmax]; rfl
  · rw [if_neg (by omega), if_pos hlarge]; rfl
  · rw [if_neg (by omega), if_neg (by omega)]; rfl

end

/-! ## The order of R97 -/

theorem notMem_opcodes_of_decode_eq_reserved {w v : Byte} (h : decode w = .reserved v) : w.toNat ∉ opcodes := by
  have hrows : ∀ n ∈ opcodes, decode (BitVec.ofNat 8 n) ≠ .reserved (BitVec.ofNat 8 n) := by decide
  obtain rfl : v = w := by rw [← encode_decode w, h, encode]
  exact fun hw => hrows v.toNat hw (by rw [BitVec.ofNat_toNat, BitVec.setWidth_eq, h])

/-- A command tests its conditions in R97's order. -/
theorem exec_code_eq_priorityCode {w : Byte} {s t : State} (hs : s.OperandsStable)
    (h : exec (decode w) s = .next t) : t.code = priorityCode w s := by
  have hlen := operandLen_stable hs
  by_cases hw : w.toNat ∈ opcodes
  case neg =>
    rw [decode_of_notMem_opcodes hw] at h
    cases h
    simp [priorityCode, hw, codeBits]
  cases hi : decode w <;> rw [hi] at h
  case reserved => exact absurd hw (notMem_opcodes_of_decode_eq_reserved hi)
  all_goals obtain rfl := (decode_eq_iff rfl w).mp hi
  case w16le | w16be => cases h; rfl
  case lew16 | bew16 =>
    cases h
    exact (wordFromTwo_code _).trans (by simp [priorityCode, encode, opcodes, hlen, ← BitVec.toNat_inj])
  case h2b => simpa [priorityCode, encode, opcodes, h2bText, hlen] using exec_h2b_code h
  case b2h => simpa [priorityCode, encode, opcodes, operandPresent_stable hs, hlen] using exec_b2h_code h
  case crc | acrc =>
    cases h
    exact requireInput_code.trans (by simp [priorityCode, encode, opcodes, hlen, codeBits])
  case vcrc => simpa [priorityCode, encode, opcodes, hlen] using exec_vcrc_code h
  case mbap => simpa [priorityCode, encode, opcodes, hlen] using exec_mbap_code h

/-! ## The statement -/

/-- Settles O15: the code is R97's, FLAG and the absent output are those of VCRC's and B2H's own outcomes, and the
faults are those of the bytes read. -/
theorem completionCodePriority : Obligations.CompletionCodePriority := by
  intro w s hs
  obtain ⟨t, h⟩ := exec_completes (decode w) s
  refine ⟨t, h, exec_code_eq_priorityCode hs h, ?_, ?_, _, exec_faults h⟩
  · rintro rfl hlt
    rw [← operandLen_stable hs] at hlt
    cases h.symm.trans (exec_vcrc_of_len_lt_two hlt)
    rfl
  · rintro rfl habsent
    rw [← operandPresent_stable hs] at habsent
    cases h.symm.trans (exec_b2h_of_absent habsent)
    exact ⟨rfl, rfl⟩

end Sys2Proof.Proofs
end

section
/-! PROOFS. Reset (spec/70_reset_and_hazards.md R109, R111). First the step that takes a reset; then the statements. -/

namespace Sys2Proof.Proofs

open Sys2Proof Sys2Proof.Machine Sys2Proof.Claims

/-! ## The step that takes a reset -/

@[simp] theorem runInput_reset (s : State) : runInput .reset s = resetBlock s := rfl

theorem step_of_engineTurn_eq_false {s : State} (hr : s.refusal = none) (hf : engineTurn s = false) :
    step s = .next (hostStep s) := by
  simp [step, hr, hf]

theorem hostStep_of_reset {s : State} (h : s.inputs.head? = some .reset) : hostStep s = resetBlock (taken s) := by
  obtain ⟨rest, hin⟩ := List.head?_eq_some_iff.mp h
  rw [hostStep, taken, hin]
  rfl

/-- A reset whose turn it is comes in the place of the engine's step, whatever the outstanding command. -/
theorem step_of_takesReset {s : State} (hr : s.refusal = none) (h : TakesReset s) :
    step s = .next (resetBlock (taken s)) := by
  obtain ⟨hf, hreset⟩ := h
  rw [step_of_engineTurn_eq_false hr hf, hostStep_of_reset hreset]

/-- On an unmarked run a reset leaves nothing of the block but the fault record. -/
theorem resetBlock_of_refusal_eq_none {s : State} (hr : s.refusal = none) :
    resetBlock s = { State.reset with
      faults := s.faults, inputs := s.inputs, reads := s.reads, draws := (resetBlock s).draws } := by
  rw [resetBlock, hr]
  rfl

/-! ## The statements -/

/-- Settles O22, by the two ways to the state: power-on, and a reset of a state `u`. -/
theorem resetValues : Obligations.ResetValues := by
  refine ⟨?_, fun u => by simp⟩
  rintro s (rfl | ⟨u, rfl⟩)
  · simp [State.reset]
  · simp

/-- Settles O23: the step is the reset of the state with the input taken off, which keeps faults and reads. -/
theorem resetAbandonsCommand : Obligations.ResetAbandonsCommand := fun s hr h =>
  ⟨resetBlock (taken s), step_of_takesReset hr h, resetBlock_of_refusal_eq_none (s := taken s) hr⟩

end Sys2Proof.Proofs
end

section
/-! PROOFS. The encoding as a whole (spec/30_encoding.md R49 to R51): every byte decodes to a well-formed command, so
decoder and encoder are inverse on the well-formed commands. -/

namespace Sys2Proof.Proofs

open Sys2Proof Sys2Proof.Machine Sys2Proof.Claims

/-- The decoder makes a reserved command of a reserved word only. -/
theorem wellFormed_decode (w : Byte) : WellFormed (decode w) = true := by
  cases hi : decode w with
  | reserved v =>
    obtain rfl : v = w := by rw [← encode_decode w, hi, encode]
    exact (isReservedWord_iff v).mpr (notMem_opcodes_of_decode_eq_reserved hi)
  | _ => rfl

/-- Settles O2: the first byte is decoded by `decode`, and `decode` and `encode` are inverse on well-formed commands. -/
theorem encodeDecodeRoundTrip : Obligations.EncodeDecodeRoundTrip := by
  refine ⟨fun i rest hi => ?_, fun w i => ⟨fun ⟨hi, hw⟩ => hw ▸ decode_encode hi, ?_⟩⟩
  · rw [encodeBytes, List.singleton_append, decodeBytes, decode_encode hi]
  · rintro rfl
    exact ⟨wellFormed_decode w, encode_decode w⟩

end Sys2Proof.Proofs
end

section
/-! PROOFS. What a command can do to the block (spec/30_encoding.md R53, R57), said once for all commands, and what no
command touches. The proofs about every step cite `exec_effect` and unfold no command. -/

namespace Sys2Proof.Proofs

open Sys2Proof Sys2Proof.Machine Sys2Proof.Claims

/-- What a command leaves, by its kind of result: `n` bytes of IBUF are read for it. -/
inductive CommandEffect (s : State) : State → Prop where
  /-- The ILLEGAL completion (60_exceptions R96). -/
  | illegal : CommandEffect s (complete .illegal s)
  /-- A byte output, which OBUF has room for. -/
  | stored (n : Nat) (bs : List Byte) (h : bs.length ≤ Config.oMaxLen) :
      CommandEffect s (complete .ok (putBytes bs (noteUnwritten n s)))
  /-- A byte output, with TID moved on (43_mbap R88). -/
  | framed (n : Nat) (bs : List Byte) (h : bs.length ≤ Config.oMaxLen) :
      CommandEffect s (complete .ok (advanceTid (putBytes bs (noteUnwritten n s))))
  /-- An absent output, before any byte is read (41_hex_codec R75, 43_mbap R90). -/
  | dropped (c : Code) (h : c = .ok ∨ c = .frameTooLarge) : CommandEffect s (complete c (dropOutput s))
  /-- FORMAT_ERROR: an absent output, and OBUF undefined (41_hex_codec R72). -/
  | malformed (n : Nat) : CommandEffect s (complete .formatError (forgetObuf (dropOutput (noteUnwritten n s))))
  /-- A word result. -/
  | word (n : Nat) (w : Word) : CommandEffect s (complete .ok (putWord w (noteUnwritten n s)))
  /-- A truth value in FLAG. -/
  | flagged (n : Nat) (b : Bool) : CommandEffect s (complete .ok (putFlag b (noteUnwritten n s)))

/-- A read of no byte has no fault to record. -/
theorem noteUnwritten_zero (s : State) : noteUnwritten 0 s = s := by
  have hfaults : (noteUnwritten 0 s).faults = s.faults := List.append_nil _
  calc noteUnwritten 0 s = { s with faults := (noteUnwritten 0 s).faults } := rfl
    _ = s := by rw [hfaults]

section
variable {s : State}

theorem commandEffect_stored_noRead {bs : List Byte} (h : bs.length ≤ Config.oMaxLen) :
    CommandEffect s (complete .ok (putBytes bs s)) := by
  simpa only [noteUnwritten_zero] using CommandEffect.stored (s := s) 0 bs h

theorem commandEffect_flagged_noRead (b : Bool) : CommandEffect s (complete .ok (putFlag b s)) := by
  simpa only [noteUnwritten_zero] using CommandEffect.flagged (s := s) 0 b

theorem commandEffect_wordFromTwo (f : Byte → Byte → Word) : CommandEffect s (wordFromTwo f s) := by
  by_cases h : operandLen s = 2
  · rw [wordFromTwo_of_len_eq f h]; exact .word 2 _
  · rw [wordFromTwo_of_len_ne f h]; exact .illegal

theorem exec_acrc_of_maxLen_lt (h : Config.maxLen < operandLen s) : exec .acrc s = .next (complete .illegal s) :=
  congrArg _ (requireInput_of_maxLen_lt _ h)

theorem exec_acrc_of_le_maxLen (h : operandLen s ≤ Config.maxLen) :
    exec .acrc s = .next (complete .ok
      (putBytes (rtuFrame (operandBytes (operandLen s) s)) (noteUnwritten (operandLen s) s))) :=
  congrArg _ (requireInput_of_le_maxLen _ h)

theorem exec_b2h_of_maxLen_lt (hp : operandPresent s = true) (h : Config.maxLen < operandLen s) :
    exec .b2h s = .next (complete .illegal s) :=
  congrArg _ ((if_pos hp).trans (requireInput_of_maxLen_lt _ h))

theorem exec_b2h_of_le_maxLen (hp : operandPresent s = true) (h : operandLen s ≤ Config.maxLen) :
    exec .b2h s = .next (complete .ok
      (putBytes (hexText (operandBytes (operandLen s) s)) (noteUnwritten (operandLen s) s))) :=
  congrArg _ ((if_pos hp).trans (requireInput_of_le_maxLen _ h))

theorem commandEffect_acrc {t : State} (h : exec .acrc s = .next t) : CommandEffect s t := by
  have hbounds := maxLen_bounds
  have homax := oMaxLen_eq
  obtain hmax | hle := Nat.lt_or_ge Config.maxLen (operandLen s)
  · cases h.symm.trans (exec_acrc_of_maxLen_lt hmax); exact .illegal
  · cases h.symm.trans (exec_acrc_of_le_maxLen hle)
    exact .stored _ _ (by rw [rtuFrame_length, operandBytes_length]; omega)

theorem commandEffect_b2h {t : State} (h : exec .b2h s = .next t) : CommandEffect s t := by
  have homax := oMaxLen_eq
  obtain hp | hp := Bool.eq_false_or_eq_true (operandPresent s)
  case inr => cases h.symm.trans (exec_b2h_of_absent hp); exact .dropped .ok (.inl rfl)
  obtain hmax | hle := Nat.lt_or_ge Config.maxLen (operandLen s)
  · cases h.symm.trans (exec_b2h_of_maxLen_lt hp hmax); exact .illegal
  · cases h.symm.trans (exec_b2h_of_le_maxLen hp hle)
    exact .stored _ _ (by rw [hexText_length, operandBytes_length]; omega)

theorem commandEffect_h2b {t : State} (h : exec .h2b s = .next t) : CommandEffect s t := by
  have homax := oMaxLen_eq
  obtain hmax | hle := Nat.lt_or_ge Config.maxLen (operandLen s)
  · cases h.symm.trans (exec_h2b_of_maxLen_lt hmax); exact .illegal
  obtain hbad | hgood := Bool.eq_false_or_eq_true (malformedText (h2bText s))
  · cases h.symm.trans (exec_h2b_of_malformed hle hbad); exact .malformed _
  · cases h.symm.trans (exec_h2b_of_wellformed hle hgood)
    have hstrip : (h2bText s).length ≤ (operandBytes (operandLen s) s).length := List.length_filter_le _ _
    rw [operandBytes_length] at hstrip
    exact .stored _ _ (by rw [pairBytes_length]; omega)

theorem commandEffect_mbap {t : State} (h : exec .mbap s = .next t) : CommandEffect s t := by
  have hbounds := maxLen_bounds
  have homax := oMaxLen_eq
  obtain ⟨-, hnext⟩ | ⟨-, -, hnext⟩ | ⟨hfits, hnext⟩ := exec_mbap_cases s <;> cases h.symm.trans hnext
  · exact .illegal
  · exact .dropped .frameTooLarge (.inr rfl)
  · exact .framed _ _ (by rw [mbapFrame_length, operandBytes_length]; omega)

/-- Every command leaves one of the seven results. -/
theorem exec_effect {i : Instr} {t : State} (h : exec i s = .next t) : CommandEffect s t := by
  have hroom : 2 ≤ Config.oMaxLen := by have := maxLen_bounds; have := oMaxLen_eq; omega
  cases i with
  | w16le | w16be => cases h; exact commandEffect_stored_noRead hroom
  | lew16 | bew16 => cases h; exact commandEffect_wordFromTwo _
  | h2b => exact commandEffect_h2b h
  | b2h => exact commandEffect_b2h h
  | crc => cases h; exact requireInput_induction .illegal (.word _ _)
  | acrc => exact commandEffect_acrc h
  | vcrc =>
    cases h
    refine requireInput_induction .illegal ?_
    split
    · exact commandEffect_flagged_noRead false
    · exact .flagged _ _
  | mbap => exact commandEffect_mbap h
  | reserved w => cases h; exact .illegal

end

/-- What no command touches: CMD, BUSYERR, the operands, the refusal mark and the host's side. To the fault record it only
adds. -/
structure CommandFrame (s t : State) : Prop where
  cmd : t.cmd = s.cmd
  busyerr : t.busyerr = s.busyerr
  ilen : t.ilen = s.ilen
  ipres : t.ipres = s.ipres
  win : t.win = s.win
  ibuf : t.ibuf = s.ibuf
  refusal : t.refusal = s.refusal
  inputs : t.inputs = s.inputs
  reads : t.reads = s.reads
  delay : t.delay = s.delay
  disturbed : t.disturbed = s.disturbed
  faults : s.faults <+: t.faults

section
variable {s t : State}

theorem CommandEffect.frame (h : CommandEffect s t) : CommandFrame s t := by
  cases h <;> constructor <;> simp

theorem CommandEffect.busy (h : CommandEffect s t) : t.busy = false := by
  cases h <;> rfl

/-- The codes of a completed command (60_exceptions R93). -/
theorem CommandEffect.code (h : CommandEffect s t) :
    t.code = 0x0#4 ∨ t.code = 0x1#4 ∨ t.code = 0x2#4 ∨ t.code = 0xF#4 := by
  cases h with
  | dropped c hc => obtain rfl | rfl := hc <;> simp [codeBits]
  | _ => simp [codeBits]

end

/-- Settles O14: every command completes, with one of the seven results, each of which clears BUSY. -/
theorem everyCommandCompletesOnce : Obligations.EveryCommandCompletesOnce := by
  intro i s
  obtain ⟨t, h⟩ := exec_completes i s
  have heffect := exec_effect h
  have hframe := heffect.frame
  exact ⟨t, h, heffect.busy, heffect.code, hframe.cmd, hframe.busyerr, hframe.ilen, hframe.ipres, hframe.win,
    fun k => by rw [hframe.ibuf], hframe.refusal, hframe.inputs, hframe.reads⟩

end Sys2Proof.Proofs
end

section
/-! PROOFS. The commands B2H (spec/41_hex_codec.md R74, R75) and ACRC (spec/42_crc16.md R80). First the characters of a
hex text over numbers; then the statements, from the outcomes of each command. -/

namespace Sys2Proof.Proofs

open Sys2Proof Sys2Proof.Machine Sys2Proof.Claims

/-! ## The characters of a hex text -/

theorem hexDigit_toNat : ∀ d : BitVec 4, (hexDigit d).toNat = digitCode d.toNat := by decide

theorem highDigit_toNat (b : Byte) : (b.extractLsb' 4 4).toNat = b.toNat / 16 := by
  have := b.isLt
  simp [Nat.shiftRight_eq_div_pow]
  omega

theorem lowDigit_toNat (b : Byte) : (b.extractLsb' 0 4).toNat = b.toNat % 16 := by simp

/-- Byte `i` stands at the characters `3i` to `3i + 2` of the text. -/
theorem hexText_getElem? : ∀ {bs : List Byte} {i : Nat} {b : Byte}, bs[i]? = some b →
    (hexText bs)[3 * i]? = some (hexDigit (b.extractLsb' 4 4)) ∧
    (hexText bs)[3 * i + 1]? = some (hexDigit (b.extractLsb' 0 4)) ∧ (hexText bs)[3 * i + 2]? = some 0x20#8
  | [], _, _, h => by simp at h
  | a :: bs, 0, b, h => by cases h; exact ⟨rfl, rfl, rfl⟩
  | a :: bs, i + 1, b, h => hexText_getElem? (bs := bs) (i := i) h

/-- R74's text over numbers: the codes of the two digits, lower case and high digit first, and a space. -/
theorem hexText_getElem?_toNat {bs : List Byte} {i : Nat} {b : Byte} (h : bs[i]? = some b) :
    (hexText bs)[3 * i]?.map BitVec.toNat = some (digitCode (b.toNat / 16)) ∧
    (hexText bs)[3 * i + 1]?.map BitVec.toNat = some (digitCode (b.toNat % 16)) ∧
    (hexText bs)[3 * i + 2]? = some 0x20#8 := by
  obtain ⟨hhigh, hlow, hspace⟩ := hexText_getElem? h
  rw [hhigh, hlow, Option.map_some, Option.map_some, hexDigit_toNat, hexDigit_toNat, highDigit_toNat, lowDigit_toNat]
  exact ⟨rfl, rfl, hspace⟩

/-! ## The statements -/

/-- Settles O9, by B2H's three outcomes: an absent input, ILEN above MAXLEN, and the hex text of the input. -/
theorem b2hRendersHexText : Obligations.B2hRendersHexText := by
  refine ⟨decode_encode (i := .b2h) rfl, fun s => ?_⟩
  obtain hp | hp := Bool.eq_false_or_eq_true (operandPresent s)
  case inr =>
    exact ⟨operandPresent s, operandLen s, _, operandPresent_stable, seesLen_operandLen s, exec_b2h_of_absent hp,
      fun _ => rfl, fun h => (nomatch hp.symm.trans h), fun h => nomatch hp.symm.trans h⟩
  obtain hmax | hle := Nat.lt_or_ge Config.maxLen (operandLen s)
  · exact ⟨operandPresent s, operandLen s, _, operandPresent_stable, seesLen_operandLen s,
      exec_b2h_of_maxLen_lt hp hmax, fun h => (nomatch hp.symm.trans h), fun _ _ => illegalOnly_complete s,
      fun _ hle => absurd hmax (Nat.not_lt.mpr hle)⟩
  · have hlen : (hexText (operandBytes (operandLen s) s)).length = 3 * operandLen s := by
      rw [hexText_length, operandBytes_length]
    exact ⟨operandPresent s, operandLen s, _, operandPresent_stable, seesLen_operandLen s,
      exec_b2h_of_le_maxLen hp hle, fun h => (nomatch hp.symm.trans h), fun _ hmax => absurd hmax (Nat.not_lt.mpr hle),
      fun _ _ => ⟨_, _, _, engineReads_operandBytes (operandLen s) s, hlen, fun i b => hexText_getElem?_toNat,
        stores_complete_putBytes .ok _ (noteUnwritten (operandLen s) s),
        fun hfits => by rw [complete_olen, putBytes_olen, hlen, lenWord_toNat hfits], rfl⟩⟩

/-- Settles O11, by ACRC's two outcomes: ILEN above MAXLEN, and the input framed with its CRC. -/
theorem acrcAppendsCrcLowByteFirst : Obligations.AcrcAppendsCrcLowByteFirst := by
  refine ⟨decode_encode (i := .acrc) rfl, fun s => ?_⟩
  obtain hmax | hle := Nat.lt_or_ge Config.maxLen (operandLen s)
  · exact ⟨operandLen s, _, seesLen_operandLen s, exec_acrc_of_maxLen_lt hmax, fun _ => illegalOnly_complete s,
      fun hle => absurd hmax (Nat.not_lt.mpr hle)⟩
  · exact ⟨operandLen s, _, seesLen_operandLen s, exec_acrc_of_le_maxLen hle,
      fun hmax => absurd hmax (Nat.not_lt.mpr hle),
      fun _ => ⟨_, _, _, _, engineReads_operandBytes (operandLen s) s, lowByte_toNat _, highByte_toNat _,
        stores_complete_putBytes .ok _ (noteUnwritten (operandLen s) s),
        fun hfits => by
          rw [complete_olen, putBytes_olen, rtuFrame_length, operandBytes_length, lenWord_toNat hfits],
        rfl⟩⟩

end Sys2Proof.Proofs
end

section
/-! PROOFS. What every step keeps (spec/10_state.md R22, R26, R29, R30, spec/20_memory.md R44): the block's invariant,
the history of BUSY, and the results on an idle block. First what the engine and the host do to each; then the
statements. -/

namespace Sys2Proof.Proofs

open Sys2Proof Sys2Proof.Machine Sys2Proof.Claims

/-! ## The invariant -/

section
variable {s t : State}

/-- The parts of the invariant that speak of the results: OBUF, OLEN and CODE. -/
structure ResultsInv (s : State) : Prop where
  obuf_wf : s.obuf.wf = true
  obuf_below : s.obuf.below Config.oMaxLen = true
  olen_le : s.olen.toNat ≤ Config.oMaxLen
  output_defined : ∀ i, i < s.olen.toNat → (s.obuf.read i).isSome
  code_produced : isProducedCode s.code = true

theorem inv_iff : s.Inv ↔ ResultsInv s ∧ s.ibuf.wf = true ∧ s.ibuf.below Config.maxLen = true ∧
    (s.disturbed ≠ [] → s.faults ≠ []) :=
  ⟨fun h => ⟨⟨h.obuf_wf, h.obuf_below, h.olen_le, h.output_defined, h.code_produced⟩, h.ibuf_wf, h.ibuf_below,
      h.disturbed_recorded⟩,
    fun ⟨h, hwf, hbelow, hrecorded⟩ => ⟨hwf, hbelow, h.obuf_wf, h.obuf_below, h.olen_le, h.output_defined,
      h.code_produced, hrecorded⟩⟩

/-- A state with the same results has them in order as well. -/
theorem ResultsInv.congr (h : ResultsInv s) (hobuf : t.obuf = s.obuf) (holen : t.olen = s.olen)
    (hcode : isProducedCode t.code = true) : ResultsInv t where
  obuf_wf := hobuf ▸ h.obuf_wf
  obuf_below := hobuf ▸ h.obuf_below
  olen_le := holen ▸ h.olen_le
  output_defined i hi := hobuf ▸ h.output_defined i (holen ▸ hi)
  code_produced := hcode

/-- An output that OBUF has room for is defined below OLEN, whatever OLEN is where its length does not fit (log 10). -/
theorem ResultsInv.of_writeSeq (h : ResultsInv s) {bs : List Byte} (hroom : bs.length ≤ Config.oMaxLen)
    (hobuf : t.obuf = s.obuf.writeSeq 0 bs) (holen : t.olen = lenWord bs.length)
    (hcode : isProducedCode t.code = true) : ResultsInv t where
  obuf_wf := hobuf ▸ memory_wf_writeSeq s.obuf 0 bs h.obuf_wf
  obuf_below := hobuf ▸ memory_below_writeSeq Config.oMaxLen s.obuf 0 bs (by omega) h.obuf_below
  olen_le := holen ▸ (lenWord_le bs.length).trans hroom
  output_defined i hi := by
    have hlen : i < bs.length := Nat.lt_of_lt_of_le (holen ▸ hi) (lenWord_le bs.length)
    rw [hobuf, memory_read_writeSeq_inside s.obuf i bs hlen, Option.isSome_some]
  code_produced := hcode

/-- An output of no byte has none that could be undefined. -/
theorem ResultsInv.of_absent (hwf : t.obuf.wf = true) (hbelow : t.obuf.below Config.oMaxLen = true)
    (holen : t.olen = 0#16) (hcode : isProducedCode t.code = true) : ResultsInv t where
  obuf_wf := hwf
  obuf_below := hbelow
  olen_le := by simp [holen]
  output_defined i hi := by simp [holen] at hi
  code_produced := hcode

theorem commandEffect_resultsInv (h : CommandEffect s t) (hs : ResultsInv s) : ResultsInv t := by
  have hcode : isProducedCode t.code = true := by
    obtain hc | hc | hc | hc := h.code <;> rw [hc] <;> decide
  cases h with
  | illegal | word | flagged => exact hs.congr rfl rfl hcode
  | stored n bs hroom | framed n bs hroom => exact hs.of_writeSeq hroom rfl rfl hcode
  | dropped c hc => exact .of_absent hs.obuf_wf hs.obuf_below rfl hcode
  | malformed n => exact .of_absent rfl rfl rfl hcode

/-- No host access changes a result. -/
theorem performEffect_results {a : HostAccess} (h : PerformEffect a s t) :
    t.code = s.code ∧ t.flag = s.flag ∧ t.opres = s.opres ∧ t.olen = s.olen ∧ t.wout = s.wout ∧ t.tid = s.tid ∧
      t.obuf = s.obuf := by
  cases h <;> simp

/-- A host access changes IBUF by the one byte it writes, if any, which lies inside it. -/
theorem performEffect_ibuf {a : HostAccess} (h : PerformEffect a s t) :
    t.ibuf = s.ibuf ∨ ∃ i b, i < Config.maxLen ∧ t.ibuf = s.ibuf.write i b := by
  cases h with
  | ibuf i b hr ha =>
    subst ha
    have hin := (accessRefusal_eq_none_iff _).mp hr
    exact .inr ⟨i, _, Nat.not_le.mp fun hi => hin (.inl hi), rfl⟩
  | _ => exact .inl (by simp)

/-- An operand joins the disturbed ones together with its fault. -/
theorem performEffect_disturbed {a : HostAccess} (h : PerformEffect a s t) (hs : s.disturbed ≠ [] → s.faults ≠ []) :
    t.disturbed ≠ [] → t.faults ≠ [] := by
  cases h with
  | ilen | ipres | win | ibuf =>
    cases hb : s.busy
    · simpa [hb] using hs
    · simp [hb]
  | unwritten => simp
  | accepted => simp
  | _ => simpa using hs

theorem performEffect_inv {a : HostAccess} (h : PerformEffect a s t) (hs : s.Inv) : t.Inv := by
  obtain ⟨hresults, hwf, hbelow, hrecorded⟩ := inv_iff.mp hs
  obtain ⟨hcode, -, -, holen, -, -, hobuf⟩ := performEffect_results h
  refine inv_iff.mpr ⟨hresults.congr hobuf holen (hcode ▸ hresults.code_produced), ?_, ?_,
    performEffect_disturbed h hrecorded⟩
  all_goals obtain hibuf | ⟨i, b, hi, hibuf⟩ := performEffect_ibuf h <;> rw [hibuf]
  · exact hwf
  · exact memory_wf_write s.ibuf i b hwf
  · exact hbelow
  · exact memory_below_write Config.maxLen s.ibuf i b hi hbelow

theorem commandEffect_inv (h : CommandEffect s t) (hs : s.Inv) : t.Inv := by
  obtain ⟨hresults, hwf, hbelow, hrecorded⟩ := inv_iff.mp hs
  have hframe := h.frame
  refine inv_iff.mpr ⟨commandEffect_resultsInv h hresults, hframe.ibuf ▸ hwf, hframe.ibuf ▸ hbelow, fun hd => ?_⟩
  have hfaults := hrecorded (hframe.disturbed ▸ hd)
  exact fun hnil => hfaults (List.prefix_nil.mp (hnil ▸ hframe.faults))

end

theorem inv_resetBlock (s : State) : (resetBlock s).Inv :=
  inv_iff.mpr ⟨.of_absent rfl rfl rfl rfl, rfl, rfl, fun hd => absurd rfl hd⟩

/-- Settles O34, by the kinds of step: a command, no change, a reset, or a host access. -/
theorem stepKeepsInvariant : Obligations.StepKeepsInvariant := by
  intro s t hs h
  have htaken : (taken s).Inv := { hs with }
  obtain ⟨-, -, hexec⟩ | ⟨-, -, -, rfl⟩ | ⟨-, -, rfl⟩ | ⟨-, -, a, ops, w, -, heffect, rfl⟩ := step_kinds h
  · exact commandEffect_inv (exec_effect hexec) hs
  · exact hs
  · exact inv_resetBlock _
  · exact { performEffect_inv heffect htaken with }

/-- Settles O35: both buffers are empty, and nothing is disturbed. -/
theorem resetHasInvariant : Obligations.ResetHasInvariant :=
  inv_iff.mpr ⟨.of_absent rfl rfl rfl rfl, rfl, rfl, fun hd => absurd rfl hd⟩

/-! ## BUSY and the results -/

section
variable {s t : State}

/-- A CMD write that is not refused is of eight bits (20_memory R35). -/
theorem lt_of_accessRefusal_cmdWrite {op : Nat} (h : accessRefusal (.regWrite 0 op) = none) : op < 256 := by
  simpa [accessRefusal, regWidth] using h

/-- Only an accepted CMD write changes BUSY from the host's side. -/
theorem performEffect_busy {a : HostAccess} (h : PerformEffect a s t) :
    (∃ op < 256, a = .regWrite 0 op ∧ s.busy = false ∧ t.busy = true) ∨
      (¬ (s.busy = false ∧ ∃ op < 256, a = .regWrite 0 op) ∧ t.busy = s.busy) := by
  cases h with
  | accepted op hr ha hb => subst ha; exact .inl ⟨op, lt_of_accessRefusal_cmdWrite hr, rfl, hb, rfl⟩
  | rejected op hr ha hb => exact .inr ⟨fun ⟨hidle, _⟩ => (nomatch hidle.symm.trans hb), rfl⟩
  | refused r hr =>
    refine .inr ⟨?_, rfl⟩
    rintro ⟨-, op, hop, rfl⟩
    simp [accessRefusal_cmdWrite hop] at hr
  | _ =>
    refine .inr ⟨?_, by simp⟩
    rintro ⟨-, op, hop, rfl⟩
    simp_all

theorem not_acceptsCommand_of_hostAccess_eq_none (h : hostAccess s = none) : ¬ AcceptsCommand s :=
  fun ⟨_, _, _, ha⟩ => nomatch h.symm.trans ha

/-- An idle block has no engine step to take. -/
theorem engineTurn_of_idle (h : s.busy = false) : engineTurn s = false := by simp [engineTurn, h]

end

/-- Settles O20, by the kinds of step: an accepted CMD write is one of the host accesses. -/
theorem busyHistory : Obligations.BusyHistory := by
  intro s t h
  obtain ⟨ht, ha, hexec⟩ | ⟨hf, ha, hno, rfl⟩ | ⟨hr, ha, rfl⟩ | ⟨hf, hno, a, ops, w, ha, heffect, rfl⟩ := step_kinds h
  · have hidle := (exec_effect hexec).busy
    exact ⟨fun hacc => absurd hacc (not_acceptsCommand_of_hostAccess_eq_none ha), fun _ => hidle, fun _ => hidle,
      fun _ hf => nomatch hf.symm.trans ht⟩
  · exact ⟨fun hacc => absurd hacc (not_acceptsCommand_of_hostAccess_eq_none ha),
      fun ht => (nomatch hf.symm.trans ht), fun hr => absurd hr hno, fun _ _ _ => rfl⟩
  · exact ⟨fun hacc => absurd hacc (not_acceptsCommand_of_hostAccess_eq_none ha), fun _ => rfl, fun _ => rfl,
      fun _ _ hno => absurd hr hno⟩
  refine ⟨?_, fun ht => (nomatch hf.symm.trans ht), fun hr => absurd hr hno, ?_⟩
  all_goals obtain ⟨op, hop, rfl, hb, hbusy⟩ | ⟨hother, hkeep⟩ := performEffect_busy heffect
  · exact fun _ => hbusy
  · rintro ⟨hb, op, hop, hacc⟩
    exact absurd ⟨hb, op, hop, Option.some.inj (ha.symm.trans hacc)⟩ hother
  · exact fun hno => absurd ⟨hb, op, hop, ha⟩ hno
  · exact fun _ _ _ => hkeep

/-- Settles O29: an idle block is left as it stands, reset, or accessed by the host, and no access changes a result. -/
theorem resultsStayUntilNextCommand : Obligations.ResultsStayUntilNextCommand := by
  intro s t h hb hacc hreset
  obtain ⟨-, -, -, hbusy⟩ := busyHistory s t h
  refine ⟨(hbusy hacc (engineTurn_of_idle hb) hreset).trans hb, ?_⟩
  obtain ⟨ht, -, -⟩ | ⟨-, -, -, rfl⟩ | ⟨hr, -, -⟩ | ⟨-, -, a, ops, w, -, heffect, rfl⟩ := step_kinds h
  · exact nomatch (engineTurn_of_idle hb).symm.trans ht
  · exact ⟨rfl, rfl, rfl, rfl, rfl, rfl, fun _ => rfl⟩
  · exact absurd hr hreset
  · obtain ⟨hcode, hflag, hopres, holen, hwout, htid, hobuf⟩ := performEffect_results heffect
    exact ⟨hcode, hflag, hopres, holen, hwout, htid, fun i => congrArg (·.read i) hobuf⟩

end Sys2Proof.Proofs
end

section
/-! PROOFS. The host port (spec/20_memory.md R34 to R38, spec/70_reset_and_hazards.md R116 to R118). First each
primitive inside the interface; then STATUS over numbers; then the statements. -/

namespace Sys2Proof.Proofs

open Sys2Proof Sys2Proof.Machine Sys2Proof.Claims

/-! ## The primitives -/

section
variable (s : State)

/-- The state after a read of the value `v` that records no fault: the host's log has it, and nothing else changes. -/
def readLogged (a : HostAccess) (v : Nat) : State := { s with reads := (a, v) :: s.reads }

theorem perform_regRead {n : Nat} (h : n < 8) :
    perform (.regRead n) s = (some (readRegister n s), readLogged s (.regRead n) (readRegister n s)) := by
  simp only [perform, (accessRefusal_eq_none_iff (.regRead n)).mpr (Nat.not_le.mpr h)]
  rfl

theorem perform_obufRead {i : Nat} (h : i < 3 * Config.maxLen) :
    perform (.obufRead i) s = (some (readObuf i s), readLogged s (.obufRead i) (readObuf i s)) := by
  simp only [perform, (accessRefusal_eq_none_iff (.obufRead i)).mpr (Nat.not_le.mpr h)]
  rfl

theorem perform_ibufRead {i : Nat} (h : i < Config.maxLen) :
    perform (.ibufRead i) s = logRead (.ibufRead i) (readIbuf i s) := by
  simp only [perform, (accessRefusal_eq_none_iff (.ibufRead i)).mpr (Nat.not_le.mpr h)]

theorem perform_ibufRead_written {i : Nat} {b : Byte} (h : i < Config.maxLen) (hb : s.ibuf.read i = some b) :
    perform (.ibufRead i) s = (some b.toNat, readLogged s (.ibufRead i) b.toNat) := by
  rw [perform_ibufRead s h, readIbuf, hb]
  rfl

theorem perform_ibufRead_unwritten {i : Nat} (h : i < Config.maxLen) (hnone : s.ibuf.read i = none) :
    perform (.ibufRead i) s = (some (Config.unwrittenByte s.draws i).toNat,
      readLogged (recordFaults [.unwrittenRead i] s) (.ibufRead i) (Config.unwrittenByte s.draws i).toNat) := by
  rw [perform_ibufRead s h, readIbuf, hnone]
  rfl

theorem perform_ibufWrite {i b : Nat} (hi : i < Config.maxLen) (hb : b < 256) :
    perform (.ibufWrite i b) s = (none, writeIbuf i b s) := by
  have hin : ¬ OutsideInterface (.ibufWrite i b) := fun h => h.elim (Nat.not_le.mpr hi) (Nat.not_le.mpr hb)
  simp only [perform, (accessRefusal_eq_none_iff _).mpr hin]

/-- A value below the register's width is inside the interface. -/
theorem perform_regWrite_fits {n v w : Nat} (hw : regWidths[n]? = some w) (hv : v < 2 ^ w) :
    perform (.regWrite n v) s = (none, writeRegister n v s) := by
  refine perform_regWrite ((accessRefusal_eq_none_iff _).mpr ?_) s
  rintro (hn | ⟨w', hw', hv'⟩)
  · obtain ⟨hlt, -⟩ := List.getElem?_eq_some_iff.mp hw
    exact Nat.not_le.mpr hlt hn
  · cases hw.symm.trans hw'
    exact Nat.not_le.mpr hv hv'

/-- On an idle block an operand write draws anew, and leaves no other mark. -/
theorem noteOperandWrite_idle {s : State} (h : s.busy = false) (a : HostAccess) (o : Operand) :
    noteOperandWrite a o s = tick s := by
  simp [noteOperandWrite, h]

/-- Under a command it is recorded as a fault, and the operand as disturbed (70_reset R116). -/
theorem noteOperandWrite_busy {s : State} (h : s.busy = true) (a : HostAccess) (o : Operand) :
    noteOperandWrite a o s =
      tick { recordFaults [.operandWriteWhileBusy a] s with disturbed := o :: s.disturbed } := by
  simp [noteOperandWrite, h]

end

/-! ## STATUS over numbers -/

/-- 10_state R17: the bits of STATUS by their weights. -/
theorem packStatus_toNat : ∀ (busy busyerr opres flag : Bool) (code : BitVec 4),
    (packStatus busy busyerr opres flag code).toNat =
      128 * busy.toNat + 64 * busyerr.toNat + 32 * opres.toNat + 16 * flag.toNat + code.toNat := by decide

theorem statusByte_toNat (s : State) :
    (statusByte s).toNat = 128 * s.busy.toNat + 64 * s.busyerr.toNat + 32 * s.opres.toNat + 16 * s.flag.toNat +
      s.code.toNat := packStatus_toNat ..

/-- The free bits of STATUS while BUSY = 1 are the low six of the word drawn (70_reset R117). -/
theorem busyStatusByte_toNat {s : State} (h : s.busy = true) :
    (busyStatusByte s).toNat = 128 + 64 * s.busyerr.toNat + (Config.busyWord s.reads.length).toNat % 64 := by
  generalize hw : Config.busyWord s.reads.length = w
  have hbit (k : Nat) : (w.getLsbD k).toNat = w.toNat / 2 ^ k % 2 := by
    rw [BitVec.getLsbD, Nat.toNat_testBit]
  have hpack : busyStatusByte s = packStatus s.busy s.busyerr (w.getLsbD 5) (w.getLsbD 4) (w.setWidth 4) := by
    rw [← hw]; rfl
  rw [hpack, packStatus_toNat, hbit, hbit, h, BitVec.toNat_setWidth, Bool.toNat_true]
  omega

/-! ## The statements -/

/-- Settles O21: registers 1, 5, 6 and 7 are none that `writeRegister` writes. -/
theorem readOnlyWritesIgnored : Obligations.ReadOnlyWritesIgnored := by
  rintro s n v (⟨rfl, hv⟩ | ⟨rfl | rfl | rfl, hv⟩) <;> exact perform_regWrite_fits s rfl hv

/-- The register table while BUSY = 1: the host's own registers as they stand, the results as the read's own word. -/
theorem readRegister_busy {s : State} (h : s.busy = true) (n : Nat) :
    readRegister n s = if 5 ≤ n then (Config.busyWord s.reads.length).toNat else
      [s.cmd.toNat, 128 + 64 * s.busyerr.toNat + (Config.busyWord s.reads.length).toNat % 64, s.ilen.toNat,
        s.ipres.toNat, s.win.toNat].getD n 0 := by
  have hresult (w : Word) : readResult w s = (Config.busyWord s.reads.length).toNat := if_pos h
  match n with
  | 0 | 2 | 3 | 4 => rfl
  | 1 => exact (if_pos h).trans (busyStatusByte_toNat h)
  | 5 | 6 => exact hresult _
  | n + 7 => exact (hresult s.tid).trans (if_pos (by omega)).symm

/-- A register read fits its register's width. -/
theorem readRegister_lt (s : State) {n w : Nat} (h : regWidths[n]? = some w) : readRegister n s < 2 ^ w := by
  have hresult (v : Word) : readResult v s < 2 ^ 16 := by unfold readResult; split <;> exact BitVec.isLt _
  obtain ⟨hn, -⟩ := List.getElem?_eq_some_iff.mp h
  match n, hn with
  | 0, _ => cases h; exact s.cmd.isLt
  | 1, _ => cases h; change (if s.busy then _ else _) < 2 ^ 8; split <;> exact BitVec.isLt _
  | 2, _ => cases h; exact s.ilen.isLt
  | 3, _ => cases h; exact Bool.toNat_lt s.ipres
  | 4, _ => cases h; exact s.win.isLt
  | 5, _ | 6, _ | 7, _ => cases h; exact hresult _

/-- Settles O26: a register by the table of what it reads as under a command, then a written IBUF byte and an OBUF
byte. -/
theorem hostReadsWhileBusy : Obligations.HostReadsWhileBusy := by
  intro s hb
  refine ⟨fun n hn => ?_, fun i b hi hread => perform_ibufRead_written s hi hread, fun i hi => ?_⟩
  · have hw : regWidths[n]? = some regWidths[n] := List.getElem?_eq_getElem hn
    refine ⟨_, _, perform_regRead s hn, hw, readRegister_lt s hw, ?_⟩
    have herr := Bool.toNat_lt s.busyerr
    rw [readRegister_busy hb]
    refine ⟨?_, ?_, ?_, ?_, ?_, ?_, fun h => if_pos h⟩ <;> rintro rfl
    case refine_2 | refine_6 => simp; omega
    all_goals rfl
  · have hvalue : readObuf i s = (Config.busyByte s.reads.length).toNat := if_pos hb
    rw [perform_obufRead s hi, hvalue]
    rfl

/-- Settles O27: a register by the table of the statement, then a written and an unwritten IBUF byte, and a defined and
an undefined OBUF byte. -/
theorem hostReadsWhenIdle : Obligations.HostReadsWhenIdle := by
  intro s hb
  have hresult (w : Word) : readResult w s = w.toNat := if_neg (by simp [hb])
  have hobuf (i : Nat) : readObuf i s = (obufByte s i).toNat := if_neg (by simp [hb])
  refine ⟨fun n v hv => ?_, fun i b hi hread => perform_ibufRead_written s hi hread, fun i hi hnone => ?_,
    fun i b hi hlt hread => ?_, fun i hi hfree => ?_⟩
  · obtain ⟨hn, -⟩ := List.getElem?_eq_some_iff.mp hv
    have hvalue : readRegister n s = v := by
      match n, hn with
      | 0, _ | 2, _ | 3, _ | 4, _ => exact Option.some.inj hv
      | 1, _ =>
        rw [← Option.some.inj hv, readRegister, if_neg (by simp [hb]), statusByte_toNat, hb, Bool.toNat_false]
        omega
      | 5, _ | 6, _ | 7, _ => exact (hresult _).trans (Option.some.inj hv)
    rw [perform_regRead s hn, hvalue]
    rfl
  · exact ⟨(Config.unwrittenByte s.draws i).toNat, BitVec.isLt _, fun rs fs =>
      perform_ibufRead_unwritten { s with reads := rs, faults := fs } hi hnone⟩
  · have hvalue : readObuf i s = b.toNat := by rw [hobuf, obufByte, if_pos hlt, hread, Option.getD_some]
    rw [perform_obufRead s hi, hvalue]
    rfl
  · have hvalue : readObuf i s = (Config.undefinedByte s.reads.length).toNat := by
      rw [hobuf, obufByte]
      obtain hge | hnone := hfree
      · rw [if_neg (Nat.not_lt.mpr hge)]; rfl
      · rw [hnone, Option.getD_none, ite_self]; rfl
    rw [perform_obufRead s hi, hvalue]
    rfl

/-- Settles O28: each write of an operand is that operand's own assignment after `noteOperandWrite`, whose two cases are
those of BUSY. -/
theorem operandWritesTakeEffect : Obligations.OperandWritesTakeEffect := by
  refine ⟨fun s i b hi hb => ⟨_, perform_ibufWrite s hi hb, fun j => ?_, fun h => ?_, fun h => ?_⟩,
    fun s v hv => ⟨_, perform_regWrite_fits s rfl hv, fun h => ?_, fun h => ?_⟩,
    fun s v hv => ⟨_, perform_regWrite_fits s rfl hv, fun h => ?_, fun h => ?_⟩,
    fun s v hv => ⟨_, perform_regWrite_fits s rfl hv, fun h => ?_, fun h => ?_⟩⟩
  · rw [writeIbuf, memory_read_write]
    simp only [eq_comm]
  · rw [writeIbuf, noteOperandWrite_idle h]; rfl
  · rw [writeIbuf, noteOperandWrite_busy h]; rfl
  all_goals rw [writeRegister]
  · rw [noteOperandWrite_idle h]; rfl
  · rw [noteOperandWrite_busy h]; rfl
  · rw [noteOperandWrite_idle h]; rfl
  · rw [noteOperandWrite_busy h]; rfl
  · rw [noteOperandWrite_idle h]; rfl
  · rw [noteOperandWrite_busy h]; rfl

end Sys2Proof.Proofs
end

section
/-! PROOFS. Steps and the host's loops (spec/30_encoding.md R56, R61, spec/20_memory.md R34,
spec/70_reset_and_hazards.md R121). First the step that takes an input, and the loops as steps; then a poll and a copy as runs of several steps. -/

namespace Sys2Proof.Proofs

open Sys2Proof Sys2Proof.Machine Sys2Proof.Claims

/-! ## The step that takes an input -/

theorem engineTurn_iff (s : State) : engineTurn s = true ↔ s.busy = true ∧ (s.delay = 0 ∨ s.inputs = []) := by
  simp [engineTurn, List.isEmpty_iff]

/-- Settles O16: the engine's turn is as `engineTurn_iff` says, and a placed word has it. -/
theorem stepRunsOutstandingCommand : Obligations.StepRunsOutstandingCommand :=
  ⟨fun _ => step_of_engineTurn, engineTurn_iff, fun _ _ _ => step_of_engineTurn rfl rfl⟩

section
variable {s t : State} {op : Input} {rest : List Input}

theorem taken_of_inputs (h : s.inputs = op :: rest) : taken s = { s with inputs := rest, delay := s.delay - 1 } := by
  rw [taken, h]; rfl

theorem step_of_inputs (hr : s.refusal = none) (hf : engineTurn s = false) (h : s.inputs = op :: rest) :
    step s = .next (runInput op (taken s)) := by
  rw [step_of_engineTurn_eq_false hr hf, hostStep, h, taken_of_inputs h]

/-- What a loop puts first comes before the inputs that stood after it. -/
theorem pushInputs_of_perform {a : HostAccess} {r : Option Nat} (h : s.inputs = op :: rest)
    (hp : perform a (taken s) = (r, t)) (ops : List Input) : pushInputs ops t = { t with inputs := ops ++ rest } := by
  have hinputs : t.inputs = rest := by
    calc t.inputs = (perform a (taken s)).2.inputs := by rw [hp]
      _ = (taken s).inputs := perform_inputs a (taken s)
      _ = rest := by rw [taken_of_inputs h]
  rw [pushInputs, hinputs]

/-- A loop that reads goes on by the value it read. -/
theorem andThen_of_perform {a : HostAccess} {v : Nat} (h : s.inputs = op :: rest)
    (hp : perform a (taken s) = (some v, t)) (next : Nat → List Input) :
    andThen (perform a (taken s)) next = { t with inputs := next v ++ rest } := by
  rw [← pushInputs_of_perform h hp, hp]; rfl

/-- A poll is put back under the condition that the bit it read is 1. -/
theorem pollAgain_append (p : Prop) [Decidable p] (rest : List Input) :
    (if p then [Input.poll] else []) ++ rest = if p then .poll :: rest else rest := by
  split <;> rfl

end

/-- Settles O17, by the three kinds of input, and with none pending. -/
theorem stepTakesNextInput : Obligations.StepTakesNextInput := by
  refine ⟨fun s op rest hr hf h => ?_, fun s a rest hr hf h => step_of_inputs hr hf h,
    fun s rest hr hf h => step_of_inputs hr hf h, fun s hr hb h => ?_⟩
  · rw [step_of_inputs hr hf h, taken_of_inputs h]
  · rw [step_of_engineTurn_eq_false hr (engineTurn_of_idle hb), hostStep, h]

/-- Settles O45: each loop's step is its access, with what it does next put first. -/
theorem hostLoopsGoOn : Obligations.HostLoopsGoOn := by
  intro s hr hf
  refine ⟨fun rest v t h hp => ?_, fun rest k t h hp => ?_, fun rest i k b t h hik hp => ?_,
    fun rest i k b t h hp => ?_, fun rest i k t h hki hp => ?_⟩ <;> rw [step_of_inputs hr hf h, runInput]
  · have hbit : v.testBit 7 = decide (v / 128 % 2 = 1) := Nat.testBit_eq_decide_div_mod_eq
    simp only [andThen_of_perform h hp, pollAgain_append, hbit, decide_eq_true_eq]
  · rw [andThen_of_perform h hp]; rfl
  · rw [if_pos hik, andThen_of_perform h hp]; rfl
  · rw [hp, pushInputs_of_perform h hp]; rfl
  · rw [if_neg (Nat.not_lt.mpr hki), hp, pushInputs_of_perform h hp]; rfl

/-! ## A poll -/

section
variable {s : State} {rest : List Input}

/-- Bit 7 of a read of STATUS is BUSY, at all times. -/
theorem status_bit7 (s : State) : (readRegister 1 s).testBit 7 = s.busy := by
  change Nat.testBit (if s.busy then _ else _) 7 = s.busy
  split
  · exact busyStatusByte_bit7 s
  · exact statusByte_bit7 s

/-- One turn of a poll: it goes on exactly while BUSY = 1. -/
theorem step_poll (hr : s.refusal = none) (hf : engineTurn s = false) (h : s.inputs = .poll :: rest) :
    ∃ rs, step s = .next { s with inputs := if s.busy then .poll :: rest else rest, reads := rs,
                                  delay := s.delay - 1 } := by
  refine ⟨(.regRead 1, readRegister 1 (taken s)) :: s.reads, ?_⟩
  rw [step_of_inputs hr hf h, runInput, andThen_of_perform h (perform_regRead (taken s) (by omega)), status_bit7,
    pollAgain_append]
  rfl

/-- `s` in the course of a poll: the host's log and the delay have moved on. -/
def polling (s : State) (rs : List (HostAccess × Nat)) (d : Nat) : State := { s with reads := rs, delay := d }

/-- While the delay lasts, the poll takes one read off it at a time. -/
theorem run_poll_delay (hr : s.refusal = none) (hb : s.busy = true) (h : s.inputs = .poll :: rest) (k : Nat) :
    ∀ (d : Nat) (rs : List (HostAccess × Nat)), ∃ rs',
      Sys2Proof.core.run (d + k) (polling s rs d) = Sys2Proof.core.run k (polling s rs' 0)
  | 0, rs => ⟨rs, by rw [Nat.zero_add]⟩
  | d + 1, rs => by
    have hf : engineTurn (polling s rs (d + 1)) = false := by simp [engineTurn, polling, h]
    obtain ⟨rs₁, hstep⟩ := step_poll (s := polling s rs (d + 1)) hr hf h
    have hnext : step (polling s rs (d + 1)) = .next (polling s rs₁ d) := by
      rw [hstep, if_pos (by exact hb), ← h]; rfl
    obtain ⟨rs', hrun⟩ := run_poll_delay hr hb h k d rs₁
    exact ⟨rs', by rw [Nat.succ_add, core_run_succ hnext, hrun]⟩

end

/-- Settles O31: the poll reads until the delay is over, the engine runs the command, and one more read ends the
poll. -/
theorem pollEndsWithResults : Obligations.PollEndsWithResults := by
  intro s rest hr hb h
  obtain ⟨rs, hrun⟩ := run_poll_delay hr hb h 2 s.delay s.reads
  obtain ⟨v, hexec⟩ := exec_completes (decode s.cmd) (polling s rs 0)
  have hengine : step (polling s rs 0) = .next v :=
    (step_of_engineTurn (s := polling s rs 0) hr ((engineTurn_iff _).mpr ⟨hb, .inl rfl⟩)).trans hexec
  have hframe := (exec_effect hexec).frame
  have hidle := (exec_effect hexec).busy
  have hdelay : v.delay = 0 := hframe.delay
  obtain ⟨rs', hpoll⟩ := step_poll (hframe.refusal.trans hr) (engineTurn_of_idle hidle) (hframe.inputs.trans h)
  have hlast : step v = .next { v with inputs := rest, reads := rs' } := by
    rw [hpoll, if_neg (by simp [hidle]), hdelay, Nat.zero_sub]
  refine ⟨polling s rs 0, v, { v with inputs := rest, reads := rs' }, ?_, rfl, hexec, rfl, hidle⟩
  exact hrun.trans (by rw [core_run_succ hengine, core_run_succ hlast, core_run_zero])

/-! ## A copy -/

/-- `s` in the course of a copy: the pending inputs, IBUF and the model's own fields have moved on. -/
def copying (s : State) (ops : List Input) (m : Memory) (rs : List (HostAccess × Nat)) (d n : Nat) : State :=
  { s with inputs := ops, ibuf := m, reads := rs, delay := d, draws := n }

section
variable {s : State} {rest : List Input} {m : Memory} {rs : List (HostAccess × Nat)} {d n i k : Nat}
variable (hr : s.refusal = none) (hb : s.busy = false)

include hr hb

/-- On an idle block each step takes one input of the copy. -/
theorem step_copying (op : Input) : step (copying s (op :: rest) m rs d n) =
    .next (runInput op (copying s rest m rs (d - 1) n)) :=
  step_of_inputs (s := copying s (op :: rest) m rs d n) hr (engineTurn_of_idle hb) rfl

/-- A copy starts with a read of OLEN, which is exact on an idle block. -/
theorem step_mvout : step (copying s (.mvout :: rest) m rs d n) =
    .next (copying s (.mvoutRead 0 s.olen.toNat :: rest) m ((.regRead 5, s.olen.toNat) :: rs) (d - 1) n) := by
  have holen : readRegister 5 (copying s rest m rs (d - 1) n) = s.olen.toNat := if_neg (by simp [copying, hb])
  rw [step_copying hr hb, runInput, perform_regRead _ (by omega), holen]
  rfl

/-- A byte below OLEN is read as it stands. -/
theorem step_mvoutRead {b : Byte} (hik : i < k) (hi : i < s.olen.toNat) (hroom : i < 3 * Config.maxLen)
    (hread : s.obuf.read i = some b) : step (copying s (.mvoutRead i k :: rest) m rs d n) =
    .next (copying s (.mvoutWrite i k b.toNat :: rest) m ((.obufRead i, b.toNat) :: rs) (d - 1) n) := by
  have hbyte : readObuf i (copying s rest m rs (d - 1) n) = b.toNat := by
    simp [readObuf, obufByte, copying, hb, hi, hread]
  rw [step_copying hr hb, runInput, if_pos hik, perform_obufRead _ hroom, hbyte]
  rfl

theorem step_mvoutWrite {b : Byte} (hroom : i < Config.maxLen) :
    step (copying s (.mvoutWrite i k b.toNat :: rest) m rs d n) =
      .next (copying s (.mvoutRead (i + 1) k :: rest) (m.write i b) rs (d - 1) (n + 1)) := by
  rw [step_copying hr hb, runInput, perform_ibufWrite _ hroom b.isLt, writeIbuf,
    noteOperandWrite_idle (s := copying s rest m rs (d - 1) n) hb, BitVec.ofNat_toNat, BitVec.setWidth_eq]
  rfl

/-- After the last byte, ILEN and then IPRES are written. -/
theorem step_mvoutLast (hki : k ≤ i) (hk : k < 65536) : step (copying s (.mvoutRead i k :: rest) m rs d n) =
    .next (copying { s with ilen := BitVec.ofNat 16 k } (.access (.regWrite 3 1) :: rest) m rs (d - 1) (n + 1)) := by
  rw [step_copying hr hb, runInput, if_neg (Nat.not_lt.mpr hki), perform_regWrite_fits _ (n := 2) rfl hk, writeRegister,
    noteOperandWrite_idle (s := copying s rest m rs (d - 1) n) hb]
  rfl

theorem step_ipresWrite : step (copying s (.access (.regWrite 3 1) :: rest) m rs d n) =
    .next (copying { s with ipres := true } rest m rs (d - 1) (n + 1)) := by
  rw [step_copying hr hb, runInput, perform_regWrite_fits _ (n := 3) (v := 1) (w := 1) rfl (by omega), writeRegister,
    noteOperandWrite_idle (s := copying s rest m rs (d - 1) n) hb]
  rfl

/-- The loop copies the bytes from index `i` on, in two steps each. -/
theorem run_mvoutRead (j : Nat) : ∀ (bs : List Byte) {i : Nat} {m : Memory} {rs : List (HostAccess × Nat)} {d n : Nat},
    i + bs.length = k → k ≤ s.olen.toNat → k ≤ Config.maxLen →
    (∀ p, p < bs.length → s.obuf.read (i + p) = bs[p]?) →
    ∃ rs' d' n', Sys2Proof.core.run (2 * bs.length + j) (copying s (.mvoutRead i k :: rest) m rs d n) =
      Sys2Proof.core.run j (copying s (.mvoutRead k k :: rest) (m.writeSeq i bs) rs' d' n')
  | [], i, m, rs, d, n, hk, _, _, _ => by
    obtain rfl : i = k := hk
    exact ⟨rs, d, n, by rw [List.length_nil, Nat.mul_zero, Nat.zero_add]; rfl⟩
  | b :: bs, i, m, rs, d, n, hk, holen, hmax, hbytes => by
    rw [List.length_cons] at hk
    have hbyte : s.obuf.read i = some b := hbytes 0 (Nat.succ_pos _)
    obtain ⟨rs', d', n', hrun⟩ := run_mvoutRead j bs (i := i + 1) (m := m.write i b)
      (rs := (.obufRead i, b.toNat) :: rs) (d := d - 1 - 1) (n := n + 1) (by omega) holen hmax
      (fun p hp => by rw [Nat.add_assoc, Nat.add_comm 1 p]; exact hbytes (p + 1) (Nat.succ_lt_succ hp))
    refine ⟨rs', d', n', ?_⟩
    rw [List.length_cons, show 2 * (bs.length + 1) + j = 2 * bs.length + j + 1 + 1 by omega,
      core_run_succ (step_mvoutRead hr hb (by omega) (by omega) (by omega) hbyte),
      core_run_succ (step_mvoutWrite hr hb (by omega)), hrun]
    rfl

end

/-- Settles O32: the copy reads OLEN, copies the bytes, and writes ILEN and IPRES. -/
theorem mvoutCopiesOutput : Obligations.MvoutCopiesOutput := by
  intro s rest bs hr hb h holen hmax hbytes
  have hstart : s = copying s (.mvout :: rest) s.ibuf s.reads s.delay s.draws := by rw [← h]; rfl
  have hfirst := step_mvout hr hb (rest := rest) (m := s.ibuf) (rs := s.reads) (d := s.delay) (n := s.draws)
  rw [← hstart] at hfirst
  obtain ⟨rs, d, n, hloop⟩ := run_mvoutRead hr hb (rest := rest) (k := s.olen.toNat) 2 bs (i := 0) (m := s.ibuf)
    (rs := (.regRead 5, s.olen.toNat) :: s.reads) (d := s.delay - 1) (n := s.draws) (by omega) (Nat.le_refl _)
    (by omega) (by simpa using hbytes)
  refine ⟨copying { s with ilen := s.olen, ipres := true } rest (s.ibuf.writeSeq 0 bs) rs (d - 1 - 1) (n + 1 + 1),
    ?_, rfl, fun i hi => ?_, fun i hi => memory_read_writeSeq_outside s.ibuf i bs hi⟩
  · rw [core_run_succ hfirst, hloop, core_run_succ (step_mvoutLast hr hb (Nat.le_refl _) s.olen.isLt),
      core_run_succ (step_ipresWrite (s := { s with ilen := BitVec.ofNat 16 s.olen.toNat }) hr hb), core_run_zero,
      BitVec.ofNat_toNat, BitVec.setWidth_eq]
  · exact (memory_read_writeSeq_inside s.ibuf i bs hi).trans (by simp [hi])

end Sys2Proof.Proofs
end

section
/-! PROOFS. Host programs and refusals (spec/30_encoding.md R60 to R62, spec/60_exceptions.md R103). First the lines by
their mnemonics; then which programs are refused, and which steps; then the statements. -/

namespace Sys2Proof.Proofs

open Sys2Proof Sys2Proof.Machine Sys2Proof.Claims

/-! ## Lines and mnemonics -/

theorem mnemonics_eq_map_mnemonic : mnemonics = opcodeTable.map OpcodeRow.mnemonic := rfl

/-- Each mnemonic has the word of its row. -/
theorem mnemonicWord_of_mem_zip : ∀ p ∈ mnemonics.zip opcodes, (mnemonicWord p.1).map BitVec.toNat = some p.2 := by
  decide

/-- A name is a mnemonic exactly when some row has it. -/
theorem mnemonicWord_eq_none_iff (m : String) : mnemonicWord m = none ↔ m ∉ mnemonics := by
  have hrow : mnemonicWord m = (opcodeTable.find? fun r => r.mnemonic == m).map rowOpcode := by
    unfold mnemonicWord
    split <;> simp_all
  simp [hrow, mnemonics_eq_map_mnemonic]

theorem commandLine_of_mem_zip {m : String} {w : Nat} (h : (m, w) ∈ mnemonics.zip opcodes) :
    commandLine m = .ok [.access (.regWrite 0 w)] := by
  obtain ⟨b, hb, hw⟩ := Option.map_eq_some_iff.mp (mnemonicWord_of_mem_zip (m, w) h)
  obtain rfl : b.toNat = w := hw
  rw [commandLine_eq, hb]

theorem commandLine_of_notMem {m : String} (h : m ∉ mnemonics) : commandLine m = .error (.unknownMnemonic m) := by
  rw [commandLine_eq, (mnemonicWord_eq_none_iff m).mpr h]

theorem commandLine_of_mem {m : String} (h : m ∈ mnemonics) : ∃ ops, commandLine m = .ok ops := by
  cases hw : mnemonicWord m with
  | none => exact absurd h ((mnemonicWord_eq_none_iff m).mp hw)
  | some w => exact ⟨_, by rw [commandLine_eq, hw]⟩

theorem transcribeLine_run (m : String) :
    transcribeLine (.run m) = (commandLine m).map (· ++ [.poll]) := by
  cases h : commandLine m <;> simp [transcribeLine, h, Except.map]

theorem loadBytes_eq_loadAccesses (bs : List Nat) : loadBytes bs = (loadAccesses bs).map .access := by
  simp [loadBytes_eq, loadAccesses]

/-- Settles O33, line by line; a program is its lines in order by its own recursion. -/
theorem hostLinesExpand : Obligations.HostLinesExpand := by
  refine ⟨fun r n v h => ?_, fun r => ?_, fun n v => ⟨rfl, rfl⟩, fun i b => ⟨rfl, rfl, rfl⟩, fun m w h => ?_,
    fun m h => ?_, fun w => rfl, rfl, rfl, fun bs => ?_, fun text => ?_, fun v => rfl, rfl,
    fun l ls ops rest hl hls => ?_⟩
  · have hnumber : ∀ p ∈ regNumbers, regNumber p.1 = p.2 := by decide
    obtain rfl : regNumber r = n := hnumber (r, n) h
    exact ⟨rfl, rfl⟩
  · exact ⟨regNumber r, by cases r <;> decide⟩
  · exact ⟨commandLine_of_mem_zip h, by rw [transcribeLine_run, commandLine_of_mem_zip h]; rfl⟩
  · exact ⟨commandLine_of_notMem h, by rw [transcribeLine_run, commandLine_of_notMem h]; rfl⟩
  · exact congrArg Except.ok (loadBytes_eq_loadAccesses bs)
  · exact congrArg Except.ok (loadBytes_eq_loadAccesses _)
  · rw [transcribe_cons, hl, hls]

/-! ## Refused programs -/

/-- A line is refused exactly when it names no command, and then by that name. -/
theorem transcribeLine_cases (l : HostLine) :
    ((∃ ops, transcribeLine l = .ok ops) ∧ ∀ m, lineMnemonic l = some m → m ∈ mnemonics) ∨
    ∃ m, lineMnemonic l = some m ∧ m ∉ mnemonics ∧ transcribeLine l = .error (.unknownMnemonic m) := by
  cases l with
  | cmd m =>
    by_cases h : m ∈ mnemonics
    · exact .inl ⟨commandLine_of_mem h, by rintro _ ⟨⟩; exact h⟩
    · exact .inr ⟨m, rfl, h, commandLine_of_notMem h⟩
  | run m =>
    by_cases h : m ∈ mnemonics
    · obtain ⟨ops, hops⟩ := commandLine_of_mem h
      exact .inl ⟨⟨_, by rw [transcribeLine_run, hops]; rfl⟩, by rintro _ ⟨⟩; exact h⟩
    · exact .inr ⟨m, rfl, h, by rw [transcribeLine_run, commandLine_of_notMem h]; rfl⟩
  | _ => exact .inl ⟨⟨_, rfl⟩, nofun⟩

theorem namesUnknown_cons (l : HostLine) (ls : List HostLine) :
    NamesUnknown (l :: ls) ↔ (∃ m, lineMnemonic l = some m ∧ m ∉ mnemonics) ∨ NamesUnknown ls := by
  simp only [NamesUnknown, List.mem_cons, exists_eq_or_imp]

/-- A program is refused exactly when a line of it names no command. -/
theorem transcribe_cases (ls : List HostLine) :
    (¬ NamesUnknown ls ∧ ∃ ops, transcribe ls = .ok ops) ∨
    (NamesUnknown ls ∧ ∃ m, m ∉ mnemonics ∧ transcribe ls = .error (.unknownMnemonic m)) := by
  induction ls with
  | nil => exact .inl ⟨by simp [NamesUnknown], [], rfl⟩
  | cons l ls ih =>
    simp only [namesUnknown_cons, transcribe_cons]
    obtain ⟨⟨ops, hops⟩, hknown⟩ | ⟨m, hm, hunknown, herror⟩ := transcribeLine_cases l
    · obtain ⟨hno, rest, hrest⟩ | ⟨hyes, m, hunknown, herror⟩ := ih
      · refine .inl ⟨?_, ops ++ rest, by rw [hops, hrest]⟩
        rintro (⟨m, hm, hunknown⟩ | hyes)
        · exact hunknown (hknown m hm)
        · exact hno hyes
      · exact .inr ⟨.inr hyes, m, hunknown, by rw [hops, herror]⟩
    · exact .inr ⟨.inl ⟨m, hm, hunknown⟩, m, hunknown, by rw [herror]⟩

/-! ## Refused accesses -/

section
variable {s t : State}

theorem refusal_eq_none_of_step (h : step s = .next t) : s.refusal = none := by
  cases hr : s.refusal with
  | none => rfl
  | some r => simp [step, hr] at h

/-- An access marks an unmarked run exactly when it lies outside the interface. -/
theorem performEffect_refusal {a : HostAccess} (h : PerformEffect a s t) (hs : s.refusal = none) :
    t.refusal ≠ none ↔ OutsideInterface a := by
  rw [← not_iff_not, ← accessRefusal_eq_none_iff]
  cases h with
  | refused r hr => simp [hr]
  | _ => simp_all

end

/-- Settles O25: the access of a step, the mark of a state, and the transcription of a program. -/
theorem refusalsExactlyAsNamed : Obligations.RefusalsExactlyAsNamed := by
  refine ⟨fun s t h => ?_, fun s r hr => by rw [step, hr], fun ls => ?_, fun ls s hls => ?_, fun ls s hls => ?_⟩
  · have hs := refusal_eq_none_of_step h
    have hnone (ha : hostAccess s = none) (ht : t.refusal = none) :
        t.refusal ≠ none ↔ ∃ a, hostAccess s = some a ∧ OutsideInterface a := by simp [ha, ht]
    obtain ⟨-, ha, hexec⟩ | ⟨-, ha, -, rfl⟩ | ⟨-, ha, rfl⟩ | ⟨-, -, a, ops, w, ha, heffect, rfl⟩ := step_kinds h
    · exact hnone ha ((exec_effect hexec).frame.refusal.trans hs)
    · exact hnone ha hs
    · exact hnone ha hs
    · simpa [ha] using performEffect_refusal heffect hs
  · obtain ⟨hno, ops, hops⟩ | ⟨hyes, m, -, herror⟩ := transcribe_cases ls
    · simp [hno, hops]
    · simp [hyes, herror]
  · obtain ⟨hno, -⟩ | ⟨-, m, hunknown, herror⟩ := transcribe_cases ls
    · exact absurd hls hno
    · exact ⟨m, hunknown, by rw [loadProgram, herror]; rfl⟩
  · obtain ⟨-, ops, hops⟩ | ⟨hyes, -⟩ := transcribe_cases ls
    · exact ⟨ops, hops, by rw [loadProgram, hops]⟩
    · exact absurd hyes hls

end Sys2Proof.Proofs
end

section
/-! PROOFS. Results and operands (spec/10_state.md R32): two states that agree on a command's operands agree on its
results. First what the agreement gives; then the kinds of results that agree; then the commands. -/

namespace Sys2Proof.Proofs

open Sys2Proof Sys2Proof.Machine Sys2Proof.Claims

/-! ## Agreement on the operands -/

/-- Two states with the same operands, none written under the command. -/
structure SameOperands (s₁ s₂ : State) : Prop where
  stable₁ : s₁.OperandsStable
  stable₂ : s₂.OperandsStable
  ilen : s₁.ilen = s₂.ilen
  ipres : s₁.ipres = s₂.ipres
  win : s₁.win = s₂.win
  ibuf : s₁.ibuf = s₂.ibuf

section
variable {s₁ s₂ : State} (h : SameOperands s₁ s₂)
include h

theorem SameOperands.operandLen_eq : operandLen s₂ = operandLen s₁ := by
  rw [operandLen_stable h.stable₁, operandLen_stable h.stable₂, h.ilen]

theorem SameOperands.operandPresent_eq : operandPresent s₂ = operandPresent s₁ := by
  rw [operandPresent_stable h.stable₁, operandPresent_stable h.stable₂, h.ipres]

theorem SameOperands.operandWord_eq : operandWord s₂ = operandWord s₁ := by
  rw [operandWord_stable h.stable₁, operandWord_stable h.stable₂, h.win]

theorem SameOperands.operandByte_eq {n i : Nat} (hw : s₁.InputWritten n) (hi : i < n) :
    operandByte s₂ i = operandByte s₁ i := by
  obtain ⟨b, hb⟩ := Option.isSome_iff_exists.mp (hw i hi)
  rw [operandByte_stable h.stable₁ hb, operandByte_stable h.stable₂ (h.ibuf ▸ hb)]

theorem SameOperands.operandBytes_eq {n : Nat} (hw : s₁.InputWritten n) : operandBytes n s₂ = operandBytes n s₁ :=
  List.map_congr_left fun _ hi => h.operandByte_eq hw (List.mem_range.mp hi)

end

/-! ## Agreement on the results -/

/-- `t₁` and `t₂` show the same results of a command run on `s₁` and on `s₂`: each result is the same in both, or is no
result of the command and kept by both. -/
structure SameResults (s₁ s₂ t₁ t₂ : State) : Prop where
  code : t₁.code = t₂.code
  wout : t₁.wout = t₂.wout ∨ (t₁.wout = s₁.wout ∧ t₂.wout = s₂.wout)
  flag : t₁.flag = t₂.flag ∨ (t₁.flag = s₁.flag ∧ t₂.flag = s₂.flag)
  tid : t₁.tid = t₂.tid ∨ (t₁.tid = s₁.tid ∧ t₂.tid = s₂.tid)
  output : (t₁.olen = t₂.olen ∧ t₁.opres = t₂.opres ∧ ∀ i, i < t₁.olen.toNat → t₁.obuf.read i = t₂.obuf.read i) ∨
    (t₁.olen = s₁.olen ∧ t₁.opres = s₁.opres ∧ t₁.obuf = s₁.obuf ∧
      t₂.olen = s₂.olen ∧ t₂.opres = s₂.opres ∧ t₂.obuf = s₂.obuf)

section
variable {s₁ s₂ : State} (n : Nat)

theorem sameResults_illegal : SameResults s₁ s₂ (complete .illegal s₁) (complete .illegal s₂) :=
  ⟨rfl, .inr ⟨rfl, rfl⟩, .inr ⟨rfl, rfl⟩, .inr ⟨rfl, rfl⟩, .inr ⟨rfl, rfl, rfl, rfl, rfl, rfl⟩⟩

theorem sameResults_word (w : Word) : SameResults s₁ s₂ (complete .ok (putWord w (noteUnwritten n s₁)))
    (complete .ok (putWord w (noteUnwritten n s₂))) :=
  ⟨rfl, .inl rfl, .inr ⟨rfl, rfl⟩, .inr ⟨rfl, rfl⟩, .inr ⟨rfl, rfl, rfl, rfl, rfl, rfl⟩⟩

theorem sameResults_flag (b : Bool) : SameResults s₁ s₂ (complete .ok (putFlag b (noteUnwritten n s₁)))
    (complete .ok (putFlag b (noteUnwritten n s₂))) :=
  ⟨rfl, .inr ⟨rfl, rfl⟩, .inl rfl, .inr ⟨rfl, rfl⟩, .inr ⟨rfl, rfl, rfl, rfl, rfl, rfl⟩⟩

/-- An output of no byte has none to differ in. -/
theorem sameResults_dropped (c : Code) : SameResults s₁ s₂ (complete c (dropOutput s₁)) (complete c (dropOutput s₂)) :=
  ⟨rfl, .inr ⟨rfl, rfl⟩, .inr ⟨rfl, rfl⟩, .inr ⟨rfl, rfl⟩, .inl ⟨rfl, rfl, fun _ hi => absurd hi (Nat.not_lt_zero _)⟩⟩

theorem sameResults_malformed :
    SameResults s₁ s₂ (complete .formatError (forgetObuf (dropOutput (noteUnwritten n s₁))))
      (complete .formatError (forgetObuf (dropOutput (noteUnwritten n s₂)))) :=
  ⟨rfl, .inr ⟨rfl, rfl⟩, .inr ⟨rfl, rfl⟩, .inr ⟨rfl, rfl⟩, .inl ⟨rfl, rfl, fun _ _ => rfl⟩⟩

/-- Below OLEN both outputs read as the bytes stored, whatever stood in OBUF. -/
theorem read_writeSeq_of_lt_lenWord (m₁ m₂ : Memory) (bs : List Byte) {i : Nat} (hi : i < (lenWord bs.length).toNat) :
    (m₁.writeSeq 0 bs).read i = (m₂.writeSeq 0 bs).read i := by
  have hlen := Nat.lt_of_lt_of_le hi (lenWord_le bs.length)
  rw [memory_read_writeSeq_inside m₁ i bs hlen, memory_read_writeSeq_inside m₂ i bs hlen]

theorem sameResults_stored (bs : List Byte) : SameResults s₁ s₂ (complete .ok (putBytes bs (noteUnwritten n s₁)))
    (complete .ok (putBytes bs (noteUnwritten n s₂))) :=
  ⟨rfl, .inr ⟨rfl, rfl⟩, .inr ⟨rfl, rfl⟩, .inr ⟨rfl, rfl⟩,
    .inl ⟨rfl, rfl, fun _ hi => read_writeSeq_of_lt_lenWord s₁.obuf s₂.obuf bs hi⟩⟩

theorem sameResults_framed (bs : List Byte) (htid : s₁.tid = s₂.tid) :
    SameResults s₁ s₂ (complete .ok (advanceTid (putBytes bs (noteUnwritten n s₁))))
      (complete .ok (advanceTid (putBytes bs (noteUnwritten n s₂)))) :=
  ⟨rfl, .inr ⟨rfl, rfl⟩, .inr ⟨rfl, rfl⟩, .inl (congrArg (· + 1#16) htid),
    .inl ⟨rfl, rfl, fun _ hi => read_writeSeq_of_lt_lenWord s₁.obuf s₂.obuf bs hi⟩⟩

end

/-! ## The commands -/

section
variable {s₁ s₂ t₁ t₂ : State} (h : SameOperands s₁ s₂)
include h

theorem sameResults_wordFromTwo (f : Byte → Byte → Word) (hw : operandLen s₁ = 2 → s₁.InputWritten 2) :
    SameResults s₁ s₂ (wordFromTwo f s₁) (wordFromTwo f s₂) := by
  by_cases hlen : operandLen s₁ = 2
  · rw [wordFromTwo_of_len_eq f hlen, wordFromTwo_of_len_eq f (h.operandLen_eq.trans hlen),
      h.operandByte_eq (hw hlen) Nat.zero_lt_two, h.operandByte_eq (hw hlen) Nat.one_lt_two]
    exact sameResults_word 2 _
  · rw [wordFromTwo_of_len_ne f hlen, wordFromTwo_of_len_ne f (h.operandLen_eq ▸ hlen)]
    exact sameResults_illegal

/-- RequireInput has the same outcome in both states, and its ILEN is the same. -/
theorem sameResults_requireInput {go₁ go₂ : Nat → State}
    (hgo : operandLen s₁ ≤ Config.maxLen → SameResults s₁ s₂ (go₁ (operandLen s₁)) (go₂ (operandLen s₁))) :
    SameResults s₁ s₂ (requireInput s₁ go₁) (requireInput s₂ go₂) := by
  obtain hmax | hle := Nat.lt_or_ge Config.maxLen (operandLen s₁)
  · rw [requireInput_of_maxLen_lt go₁ hmax, requireInput_of_maxLen_lt go₂ (h.operandLen_eq ▸ hmax)]
    exact sameResults_illegal
  · rw [requireInput_of_le_maxLen go₁ hle, requireInput_of_le_maxLen go₂ (h.operandLen_eq ▸ hle), h.operandLen_eq]
    exact hgo hle

/-- A command on the same operands, with every byte it reads written, shows the same results. -/
theorem sameResults_exec {w : Byte} (htid : w = 0x31#8 → s₁.tid = s₂.tid)
    (hw : s₁.InputWritten (readCount { s₁ with cmd := w })) (h₁ : exec (decode w) s₁ = .next t₁)
    (h₂ : exec (decode w) s₂ = .next t₂) : SameResults s₁ s₂ t₁ t₂ := by
  have hlen : operandLen { s₁ with cmd := w } = operandLen s₁ := rfl
  have hpres : operandPresent { s₁ with cmd := w } = operandPresent s₁ := rfl
  simp only [readCount, hlen, hpres] at hw
  cases hi : decode w <;> rw [hi] at h₁ h₂ hw <;> cases h₁ <;> cases h₂ <;> dsimp only at hw
  case w16le | w16be =>
    rw [h.operandWord_eq]
    simpa only [noteUnwritten_zero] using sameResults_stored (s₁ := s₁) (s₂ := s₂) 0 _
  case reserved => exact sameResults_illegal
  case lew16 | bew16 => exact sameResults_wordFromTwo h _ fun hlen => by rwa [if_pos hlen] at hw
  case b2h =>
    rw [h.operandPresent_eq]
    cases hp : operandPresent s₁
    · exact sameResults_dropped .ok
    rw [if_pos rfl, if_pos rfl]
    refine sameResults_requireInput h fun hle => ?_
    rw [h.operandBytes_eq (by simpa [hp, hle] using hw)]
    exact sameResults_stored _ _
  case mbap =>
    refine sameResults_requireInput h fun hle => ?_
    obtain hlarge | hfits := Nat.lt_or_ge Config.mbapMaxPdu (operandLen s₁)
    · rw [if_pos hlarge, if_pos hlarge]
      exact sameResults_dropped .frameTooLarge
    · have htid := htid ((decode_eq_iff (i := .mbap) rfl w).mp hi)
      rw [if_neg (Nat.not_lt.mpr hfits), if_neg (Nat.not_lt.mpr hfits), ← htid,
        h.operandBytes_eq (by rwa [if_pos (c := operandLen s₁ ≤ 252) hfits] at hw)]
      exact sameResults_framed _ _ htid
  all_goals refine sameResults_requireInput h fun hle => ?_
  case vcrc =>
    obtain hlt | htwo := Nat.lt_or_ge (operandLen s₁) 2
    · rw [if_pos hlt, if_pos hlt]
      simpa only [noteUnwritten_zero] using sameResults_flag (s₁ := s₁) (s₂ := s₂) 0 false
    · rw [if_neg (Nat.not_lt.mpr htwo), if_neg (Nat.not_lt.mpr htwo),
        h.operandBytes_eq (by rwa [if_pos ⟨htwo, hle⟩] at hw)]
      exact sameResults_flag _ _
  all_goals rw [if_pos hle] at hw; rw [h.operandBytes_eq hw]
  case crc => exact sameResults_word _ _
  case acrc => exact sameResults_stored _ _
  case h2b =>
    dsimp only
    split
    · exact sameResults_malformed _
    · exact sameResults_stored _ _

end

/-- Settles O36: the conclusion is the agreement of results, field by field. -/
theorem resultsDependOnOperandsOnly : Obligations.ResultsDependOnOperandsOnly := by
  intro w s₁ s₂ t₁ t₂ hs₁ hs₂ hilen hipres hwin hibuf htid hw h₁ h₂
  obtain ⟨hcode, hwout, hflag, htid', houtput⟩ :=
    sameResults_exec ⟨hs₁, hs₂, hilen, hipres, hwin, hibuf⟩ htid hw h₁ h₂
  exact ⟨hcode, hwout, hflag, htid', houtput⟩

end Sys2Proof.Proofs
end

section
/-! PROOFS. The laws of the endian converters (spec/40_endian.md R67) and the consequences of MBAP's frame
(spec/43_mbap.md R91). First what a known input and a known output fix, which the laws of every family use; then the
statements. -/

namespace Sys2Proof.Proofs

open Sys2Proof Sys2Proof.Machine Sys2Proof.Claims

/-! ## A known input and a known output -/

section
variable {s : State} {bs : List Byte} (h : InputIs s bs)
include h

theorem operandLen_of_inputIs : operandLen s = bs.length := (operandLen_stable h.stable).trans h.len

theorem operandPresent_of_inputIs : operandPresent s = true := (operandPresent_stable h.stable).trans h.present

theorem operandByte_of_inputIs {i : Nat} {b : Byte} (hb : bs[i]? = some b) : operandByte s i = b := by
  obtain ⟨hi, -⟩ := List.getElem?_eq_some_iff.mp hb
  exact operandByte_stable h.stable ((h.bytes i hi).trans hb)

/-- The command reads exactly the bytes of the input. -/
theorem operandBytes_of_inputIs : operandBytes (operandLen s) s = bs := by
  rw [operandLen_of_inputIs h]
  refine List.ext_getElem (operandBytes_length _ s) fun i hi hi' => ?_
  have hbyte := operandBytes_getElem? bs.length i s hi'
  rw [operandByte_of_inputIs h (List.getElem?_eq_getElem hi')] at hbyte
  exact List.getElem_eq_iff hi |>.mpr hbyte

/-- The input of a command has at most 65535 bytes. -/
theorem length_lt_of_inputIs : bs.length < 65536 := h.len ▸ s.ilen.isLt

end

/-- A state that shows an output shows no other. -/
theorem outputIs_unique {t : State} {bs out : List Byte} (h : OutputIs t bs) (h' : OutputIs t out) : out = bs := by
  have hlen : out.length = bs.length := h'.len.symm.trans h.len
  refine List.ext_getElem? fun i => ?_
  obtain hi | hi := Nat.lt_or_ge i bs.length
  · exact (h'.bytes i (hlen ▸ hi)).symm.trans (h.bytes i hi)
  · rw [List.getElem?_eq_none hi, List.getElem?_eq_none (hlen ▸ hi)]

/-- A byte output of a length that OLEN holds is shown. -/
theorem outputIs_complete_putBytes {bs : List Byte} (h : bs.length < 65536) (s : State) :
    OutputIs (complete .ok (putBytes bs s)) bs where
  ok := rfl
  present := rfl
  len := lenWord_toNat h
  bytes := (stores_complete_putBytes .ok bs s).1

/-! ## The endian converters -/

section
variable {s t : State}

theorem outputIs_w16le (hs : s.OperandsStable) (h : exec .w16le s = .next t) : OutputIs t (bytesLE s.win) := by
  cases h
  rw [← operandWord_stable hs]
  exact outputIs_complete_putBytes (bs := bytesLE (operandWord s)) (by simp [bytesLE]) s

theorem outputIs_w16be (hs : s.OperandsStable) (h : exec .w16be s = .next t) : OutputIs t (bytesBE s.win) := by
  cases h
  rw [← operandWord_stable hs]
  exact outputIs_complete_putBytes (bs := bytesBE (operandWord s)) (by simp [bytesBE]) s

theorem wordFromTwo_wout {b0 b1 : Byte} (f : Byte → Byte → Word) (h : InputIs s [b0, b1]) :
    (wordFromTwo f s).wout = f b0 b1 := by
  rw [wordFromTwo_of_len_eq f (operandLen_of_inputIs h), operandByte_of_inputIs h (i := 0) rfl,
    operandByte_of_inputIs h (i := 1) rfl]
  rfl

theorem exec_lew16_wout {b0 b1 : Byte} (h : InputIs s [b0, b1]) (hexec : exec .lew16 s = .next t) :
    t.wout = wordLE b0 b1 := by
  cases hexec
  exact wordFromTwo_wout wordLE h

theorem exec_bew16_wout {b0 b1 : Byte} (h : InputIs s [b0, b1]) (hexec : exec .bew16 s = .next t) :
    t.wout = wordBE b0 b1 := by
  cases hexec
  exact wordFromTwo_wout wordBE h

end

theorem wordBE_eq_wordLE (b0 b1 : Byte) : wordBE b0 b1 = wordLE b1 b0 := by
  apply BitVec.eq_of_toNat_eq
  rw [wordBE_toNat, wordLE_toNat, Nat.add_comm]

theorem bytesLE_wordLE (b0 b1 : Byte) : bytesLE (wordLE b0 b1) = [b0, b1] := by
  rw [bytesLE, lowByte_wordLE, highByte_wordLE]

theorem bytesBE_wordBE (b0 b1 : Byte) : bytesBE (wordBE b0 b1) = [b0, b1] := by
  rw [bytesBE, wordBE_eq_wordLE, lowByte_wordLE, highByte_wordLE]

/-- Settles O37, each law from the words and byte pairs of its two commands. -/
theorem endianConverterLaws : Obligations.EndianConverterLaws := by
  refine ⟨fun s t u v bs hs ht hout hin hv => ?_, fun s t u v bs hs ht hout hin hv => ?_,
    fun u v s t b0 b1 hin hv hs hwin ht => ?_, fun u v s t b0 b1 hin hv hs hwin ht => ?_,
    fun s t₁ t₂ b0 b1 h₁ hout h₂ => ?_, fun u₁ u₂ v₁ v₂ b0 b1 hin₁ hin₂ h₁ h₂ => ?_⟩
  · rw [outputIs_unique (outputIs_w16le hs ht) hout] at hin
    rw [exec_lew16_wout hin hv, wordLE_low_high]
  · rw [outputIs_unique (outputIs_w16be hs ht) hout] at hin
    rw [exec_bew16_wout hin hv, wordBE_high_low]
  · rw [← bytesLE_wordLE b0 b1, ← exec_lew16_wout hin hv, ← hwin]
    exact outputIs_w16le hs ht
  · rw [← bytesBE_wordBE b0 b1, ← exec_bew16_wout hin hv, ← hwin]
    exact outputIs_w16be hs ht
  · cases h₁
    cases h₂
    obtain ⟨rfl, rfl⟩ : b0 = lowByte (operandWord s) ∧ b1 = highByte (operandWord s) := by
      simpa [bytesLE] using
        outputIs_unique (outputIs_complete_putBytes (bs := bytesLE (operandWord s)) (by simp [bytesLE]) s) hout
    exact outputIs_complete_putBytes (bs := bytesBE (operandWord s)) (by simp [bytesBE]) s
  · rw [exec_lew16_wout hin₁ h₁, exec_bew16_wout hin₂ h₂, wordBE_eq_wordLE]

/-! ## MBAP frames -/

section
variable {s t : State} {out : List Byte}

/-- An MBAP that shows an output has sent its frame. -/
theorem exec_mbap_of_outputIs (h : exec .mbap s = .next t) (hout : OutputIs t out) : t = mbapFramed s := by
  obtain ⟨-, ht⟩ | ⟨herr, -⟩ := exec_mbap_ok_or_tid h
  · exact ht
  · exact absurd hout.ok herr

/-- An input that fits is sent as its frame. -/
theorem outputIs_mbapFramed {p : List Byte} (hin : InputIs s p) (hp : p.length ≤ 252) :
    OutputIs (mbapFramed s) (mbapFrame s.tid p) := by
  have hstores := stores_mbapFramed s
  have holen : (mbapFramed s).olen = lenWord (mbapFrame s.tid (operandBytes (operandLen s) s)).length := rfl
  rw [operandBytes_of_inputIs hin] at hstores holen
  exact ⟨rfl, rfl, by rw [holen, lenWord_toNat (by rw [mbapFrame_length]; omega)], hstores.1⟩

/-- R85 to R87: the header's LEN field over numbers, and the frame's length. -/
theorem mbapFrame_len_bytes (tid : Word) {p : List Byte} (hp : p.length ≤ 252) :
    (mbapFrame tid p)[4]? = some 0x00#8 ∧ (mbapFrame tid p)[5]?.map BitVec.toNat = some (p.length + 1) := by
  have hbytes (i : Nat) : (mbapFrame tid p)[i]?.map BitVec.toNat = _ :=
    List.getElem?_map.symm.trans (congrArg (·[i]?) (mbapFrame_map_toNat tid rfl (by omega)))
  refine ⟨?_, (hbytes 5).trans (congrArg some (Nat.mod_eq_of_lt (by omega)))⟩
  obtain ⟨b, hb, hzero⟩ := Option.map_eq_some_iff.mp (hbytes 4)
  rw [hb, BitVec.eq_of_toNat_eq (hzero.trans (Nat.div_eq_of_lt (by omega)) : b.toNat = (0x00#8).toNat)]

/-- A frame sent starts with TID, high byte first, and leaves TID moved on by one (R88). -/
theorem exec_mbap_emits_tid (h : exec .mbap s = .next t) (hout : OutputIs t out) {a0 a1 : Byte}
    (h0 : out[0]? = some a0) (h1 : out[1]? = some a1) :
    256 * a0.toNat + a1.toNat = s.tid.toNat ∧ t.tid.toNat = (s.tid.toNat + 1) % 65536 := by
  obtain rfl := exec_mbap_of_outputIs h hout
  obtain ⟨hlen1, -⟩ := List.getElem?_eq_some_iff.mp h1
  obtain ⟨hhigh, hlow⟩ := mbapFramed_emits_tid s
  rw [hout.bytes 0 (by omega), h0, Option.map_some, Option.some_inj] at hhigh
  rw [hout.bytes 1 hlen1, h1, Option.map_some, Option.some_inj] at hlow
  exact ⟨by omega, mbapFramed_tid_toNat s⟩

end

/-- Settles O44: the frame's bytes are those of `mbapFrame`, and each of the two frames starts with its own TID. -/
theorem mbapHeaderConsequences : Obligations.MbapHeaderConsequences := by
  refine ⟨fun s t p out hin hp h hout => ?_, fun s t u v p q x y _ _ h hx htid hv hy a0 a1 b0 b1 ha0 ha1 hb0 hb1 => ?_⟩
  · obtain rfl := exec_mbap_of_outputIs h hout
    obtain rfl := outputIs_unique (outputIs_mbapFramed hin hp) hout
    have hlen := mbapFrame_length s.tid p
    exact ⟨hlen, by omega, by omega, mbapFrame_len_bytes s.tid hp⟩
  · obtain ⟨hfirst, hmoved⟩ := exec_mbap_emits_tid h hx ha0 ha1
    obtain ⟨hsecond, -⟩ := exec_mbap_emits_tid hv hy hb0 hb1
    rw [hsecond, htid, hmoved, hfirst]

end Sys2Proof.Proofs
end

section
/-! PROOFS. The laws of the CRC (spec/42_crc16.md R77, R82 to R84). First the register: the loop, its injectivity, and
the two bytes that bring it to 0; then the frame check as a zero residue; then the statements. -/

namespace Sys2Proof.Proofs

open Sys2Proof Sys2Proof.Machine Sys2Proof.Claims

/-! ## The register -/

/-- The last of the bits is one more bit. -/
theorem crcBits_succ (k : Nat) (r : Word) : crcBits (k + 1) r = crcBit (crcBits k r) := by
  induction k generalizing r with
  | zero => rfl
  | succ k ih => exact ih (crcBit r)

/-- The check value of R77, for the nine characters "123456789". -/
theorem crc16_checkValue :
    crc16 [0x31#8, 0x32#8, 0x33#8, 0x34#8, 0x35#8, 0x36#8, 0x37#8, 0x38#8, 0x39#8] = 0x4B37#16 := by decide +kernel

/-- Settles O40: the register before bit `k` is `crcBits k` of the register with the byte added. -/
theorem crcLoop : Obligations.CrcLoop := by
  refine ⟨rfl, fun bs b => ⟨fun k => (crcBits k (crc16 bs ^^^ b.setWidth 16)).toNat, ?_, fun k _ => ?_, ?_⟩,
    crc16_checkValue⟩
  · have hb : (b.setWidth 16).toNat = b.toNat := BitVec.toNat_setWidth_of_le (by omega)
    exact (BitVec.toNat_xor ..).trans (by rw [hb])
  · exact (congrArg BitVec.toNat (crcBits_succ k _)).trans (crcBit_toNat _)
  · rw [crc16_snoc]
    rfl

theorem crcByte_left_injective {r r' : Word} {b : Byte} (h : crcByte r b = crcByte r' b) : r = r' :=
  (BitVec.xor_left_inj _).mp (crcBits_injective _ h)

theorem crcByte_right_injective {r : Word} {b b' : Byte} (h : crcByte r b = crcByte r b') : b = b' := by
  have hwide := congrArg BitVec.toNat ((BitVec.xor_right_inj _).mp (crcBits_injective _ h))
  rw [BitVec.toNat_setWidth_of_le (by omega), BitVec.toNat_setWidth_of_le (by omega)] at hwide
  exact BitVec.eq_of_toNat_eq hwide

/-- The bytes that follow lose nothing either. -/
theorem foldl_crcByte_injective (bs : List Byte) {r r' : Word} (h : bs.foldl crcByte r = bs.foldl crcByte r') :
    r = r' := by
  induction bs generalizing r r' with
  | nil => exact h
  | cons b bs ih => exact crcByte_left_injective (ih h)

/-- A change of one byte changes the register. -/
theorem foldl_crcByte_modify_ne {f : Byte → Byte} (hf : ∀ b, f b ≠ b) :
    ∀ {bs : List Byte} {j : Nat} (r : Word), j < bs.length → (bs.modify j f).foldl crcByte r ≠ bs.foldl crcByte r
  | b :: bs, 0, _, _, h => hf b (crcByte_right_injective (foldl_crcByte_injective bs h))
  | b :: _, _ + 1, r, hj, h => foldl_crcByte_modify_ne hf (crcByte r b) (Nat.lt_of_succ_lt_succ hj) h

/-- While the bits shifted out are 0, the loop halves. -/
theorem crcBits_toNat_of_mod_eq_zero (k : Nat) {r : Word} (h : r.toNat % 2 ^ k = 0) :
    (crcBits k r).toNat = r.toNat / 2 ^ k := by
  induction k generalizing r with
  | zero => exact (Nat.div_one _).symm
  | succ k ih =>
    obtain ⟨q, hq⟩ := Nat.dvd_of_mod_eq_zero h
    have heven : (crcBit r).toNat = 2 ^ k * q := by
      rw [crcBit_toNat, hq, Nat.pow_succ', Nat.mul_assoc, Nat.mul_mod_right, if_neg Nat.zero_ne_one,
        Nat.mul_div_cancel_left _ Nat.two_pos]
    rw [crcBits, ih (by rw [heven, Nat.mul_mod_right]), heven, hq, Nat.mul_div_cancel_left _ (Nat.two_pow_pos k),
      Nat.mul_div_cancel_left _ (Nat.two_pow_pos _)]

/-- The low byte of the register, added to it, leaves its high byte. -/
theorem crcByte_lowByte (r : Word) : crcByte r (lowByte r) = (highByte r).setWidth 16 := by
  have hlow : (r ^^^ (lowByte r).setWidth 16).toNat = r.toNat ^^^ r.toNat % 2 ^ 8 := by
    rw [BitVec.toNat_xor, BitVec.toNat_setWidth_of_le (by omega), lowByte_toNat]; rfl
  have hmod : (r.toNat ^^^ r.toNat % 2 ^ 8) % 2 ^ 8 = 0 := by
    rw [Nat.xor_mod_two_pow, Nat.mod_mod, Nat.xor_self]
  have hdiv : (r.toNat ^^^ r.toNat % 2 ^ 8) / 2 ^ 8 = r.toNat / 2 ^ 8 := by
    rw [Nat.xor_div_two_pow, Nat.div_eq_of_lt (Nat.mod_lt _ (Nat.two_pow_pos 8)), Nat.xor_zero]
  apply BitVec.eq_of_toNat_eq
  rw [BitVec.toNat_setWidth_of_le (by omega), highByte_toNat]
  exact (crcBits_toNat_of_mod_eq_zero 8 (hlow ▸ hmod)).trans (hlow ▸ hdiv)

/-- Two bytes bring the register to 0 exactly when they are the register, low byte first. -/
theorem crcByte_crcByte_eq_zero_iff (r : Word) (lo hi : Byte) :
    crcByte (crcByte r lo) hi = 0#16 ↔ r = wordLE lo hi := by
  have hzero : crcByte (crcByte (wordLE lo hi) lo) hi = 0#16 := by
    have hlow := crcByte_lowByte (wordLE lo hi)
    rw [lowByte_wordLE, highByte_wordLE] at hlow
    rw [hlow, crcByte, BitVec.xor_self]
    decide
  constructor
  · intro h
    exact crcByte_left_injective (crcByte_left_injective (h.trans hzero.symm))
  · rintro rfl
    exact hzero

/-! ## The frame check -/

/-- A frame of at least two bytes verifies exactly when its CRC is 0. -/
theorem verifyFrame_iff_crc16_eq_zero {f : List Byte} (h : 2 ≤ f.length) : verifyFrame f = true ↔ crc16 f = 0#16 := by
  obtain ⟨lo, hi, hlast⟩ : ∃ lo hi, f.drop (f.length - 2) = [lo, hi] :=
    List.length_eq_two.mp (by rw [List.length_drop]; omega)
  rw [← List.take_append_drop (f.length - 2) f, hlast, verifyFrame_append, beq_iff_eq,
    ← crcByte_crcByte_eq_zero_iff]
  simp only [crc16, List.foldl_append, List.foldl_cons, List.foldl_nil]

theorem verifyFrame_rtuFrame (p : List Byte) : verifyFrame (rtuFrame p) = true := by
  rw [rtuFrame, bytesLE, verifyFrame_append, wordLE_low_high, beq_self_eq_true]

theorem crc16_rtuFrame (p : List Byte) : crc16 (rtuFrame p) = 0#16 :=
  (verifyFrame_iff_crc16_eq_zero (by rw [rtuFrame_length]; omega)).mp (verifyFrame_rtuFrame p)

section
variable {s t : State} {f bs out : List Byte}

theorem exec_vcrc_of_inputIs (h : InputIs s f) (htwo : 2 ≤ f.length) (hle : f.length ≤ Config.maxLen) :
    exec .vcrc s = .next (complete .ok (putFlag (verifyFrame f) (noteUnwritten (operandLen s) s))) := by
  rw [← operandLen_of_inputIs h] at htwo hle
  refine congrArg _ ((requireInput_of_le_maxLen _ hle).trans ((if_neg (Nat.not_lt.mpr htwo)).trans ?_))
  rw [operandBytes_of_inputIs h]

theorem exec_acrc_of_inputIs (h : InputIs s bs) (hle : bs.length ≤ Config.maxLen) :
    exec .acrc s = .next (complete .ok (putBytes (rtuFrame bs) (noteUnwritten (operandLen s) s))) := by
  rw [exec_acrc_of_le_maxLen (by rwa [operandLen_of_inputIs h]), operandBytes_of_inputIs h]

/-- ACRC's output, where OLEN holds its length, is the input framed. -/
theorem output_of_exec_acrc (hle : bs.length + 2 ≤ Config.maxLen) (hin : InputIs s bs) (h : exec .acrc s = .next t)
    (hout : OutputIs t out) : out = rtuFrame bs := by
  have hbounds := maxLen_bounds
  rw [exec_acrc_of_inputIs hin (by omega)] at h
  cases h
  exact outputIs_unique (outputIs_complete_putBytes (by rw [rtuFrame_length]; omega) _) hout

end

/-! ## The statements -/

/-- Settles O41: below two bytes nothing is read, and above it FLAG compares the CRC with the last two bytes. -/
theorem vcrcCornerCases : Obligations.VcrcCornerCases := by
  have hbounds := maxLen_bounds
  refine ⟨fun s t hs hlt h => ?_, fun s t b0 b1 hin h => ?_, fun s t p lo hi hle hcrc hin h => ?_⟩
  · rw [exec_vcrc_of_len_lt_two (by rwa [operandLen_stable hs])] at h
    cases h
    exact ⟨rfl, rfl, rfl⟩
  · rw [exec_vcrc_of_inputIs hin (Nat.le_refl 2) (by change 2 ≤ _; omega)] at h
    cases h
    have hb0 := b0.isLt
    have hb1 := b1.isLt
    have hempty : (crc16 []).toNat = 65535 := rfl
    rw [complete_flag, putFlag_flag, ← List.nil_append [b0, b1], verifyFrame_append_eq_decide, hempty,
      decide_eq_true_iff]
    bv_omega
  · rw [exec_vcrc_of_inputIs hin (by simp) (by simpa using hle)] at h
    cases h
    have hlo := lo.isLt
    have hhi := hi.isLt
    rw [complete_flag, putFlag_flag, verifyFrame_append_eq_decide, hcrc, decide_eq_true_iff]
    bv_omega

/-- Settles O42: the two bytes ACRC appends are the CRC, low byte first, which brings the register to 0. -/
theorem acrcThenVcrcHolds : Obligations.AcrcThenVcrcHolds := by
  refine ⟨fun s t u bs out hle hin h hout hu => ?_, fun s t bs out hle hin h hlen hbytes => ?_⟩
  · obtain rfl := output_of_exec_acrc hle hin h hout
    have hlen := rtuFrame_length bs
    exact ⟨_, exec_vcrc_of_inputIs hu (by omega) (by omega), rfl, verifyFrame_rtuFrame bs⟩
  · rw [exec_acrc_of_inputIs hin hle] at h
    cases h
    have hframe := (stores_complete_putBytes .ok (rtuFrame bs) (noteUnwritten (operandLen s) s)).1
    rw [← rtuFrame_length] at hlen
    obtain rfl : out = rtuFrame bs := by
      refine List.ext_getElem hlen fun i hi hi' => Option.some_inj.mp ?_
      rw [← List.getElem?_eq_getElem, ← List.getElem?_eq_getElem, ← hbytes i hi, hframe i hi']
    exact crc16_rtuFrame bs

/-- Settles O43: a frame with one byte changed has a CRC other than 0. -/
theorem singleBitFlipIsDetected : Obligations.SingleBitFlipIsDetected := by
  intro s t u bs out j k hle hin h hout hj hk hu
  obtain rfl := output_of_exec_acrc hle hin h hout
  have hflip (b : Byte) : b ^^^ (1#8 <<< k) ≠ b := by
    have hbit : ∀ k < 8, 1#8 <<< k ≠ 0#8 := by decide
    exact fun h => hbit k hk ((BitVec.xor_right_inj b).mp (h.trans BitVec.xor_zero.symm))
  have hlen : (flipBit j k (rtuFrame bs)).length = bs.length + 2 := (List.length_modify ..).trans (rtuFrame_length bs)
  refine ⟨_, exec_vcrc_of_inputIs hu (by omega) (by omega), rfl, Bool.eq_false_iff.mpr fun hverify => ?_⟩
  have hresidue := (verifyFrame_iff_crc16_eq_zero (by omega)).mp hverify
  exact foldl_crcByte_modify_ne hflip Config.crcInit hj (hresidue.trans (crc16_rtuFrame bs).symm)

end Sys2Proof.Proofs
end

section
/-! PROOFS. The laws of the hex codec (spec/41_hex_codec.md R73, R76). First the digits of a rendered text; then what
H2B and B2H leave on a known input; then texts with equal digits; then the statements. -/

namespace Sys2Proof.Proofs

open Sys2Proof Sys2Proof.Machine Sys2Proof.Claims

/-! ## The digits of a rendered text -/

theorem isWhitespace_hexDigit : ∀ d : BitVec 4, isWhitespace (hexDigit d) = false := by decide

/-- Stripping a rendered text takes its spaces away and nothing else. -/
theorem strippedText_hexText_cons (b : Byte) (bs : List Byte) :
    strippedText (hexText (b :: bs)) =
      hexDigit (b.extractLsb' 4 4) :: hexDigit (b.extractLsb' 0 4) :: strippedText (hexText bs) := by
  have hspace : isWhitespace 0x20#8 = true := rfl
  simp [← stripText_eq_strippedText, hexText_cons, stripText, isWhitespace_hexDigit, hspace]

theorem digitValue_hexDigit (d : BitVec 4) : digitValue (hexDigit d) = some d.toNat := by
  rw [digitValue_eq_hexval, hexval_hexDigit, Option.map_some, BitVec.toNat_setWidth_of_le (by omega)]

theorem malformedText_strippedText_hexText (bs : List Byte) : malformedText (strippedText (hexText bs)) = false := by
  rw [malformedText_eq_false_iff]
  induction bs with
  | nil => exact ⟨rfl, nofun⟩
  | cons b bs ih =>
    obtain ⟨hlen, hdigits⟩ := ih
    rw [strippedText_hexText_cons]
    refine ⟨by simp only [List.length_cons]; omega, ?_⟩
    simp only [List.forall_mem_cons]
    exact ⟨⟨_, digitValue_hexDigit _⟩, ⟨_, digitValue_hexDigit _⟩, hdigits⟩

/-- The pairs of a rendered text are its bytes. -/
theorem pairBytes_strippedText_hexText (bs : List Byte) : pairBytes (strippedText (hexText bs)) = bs := by
  induction bs with
  | nil => rfl
  | cons b bs ih =>
    have hpair := pairByte_toNat (digitValue_hexDigit (b.extractLsb' 4 4)) (digitValue_hexDigit (b.extractLsb' 0 4))
    rw [highDigit_toNat, lowDigit_toNat, Nat.div_add_mod] at hpair
    rw [strippedText_hexText_cons, pairBytes, ih, BitVec.eq_of_toNat_eq hpair]

/-! ## H2B and B2H on a known input -/

section
variable {s t : State} {text bs out : List Byte}

theorem h2bText_of_inputIs (h : InputIs s text) : h2bText s = strippedText text := by
  rw [h2bText, operandBytes_of_inputIs h]

theorem exec_h2b_of_inputIs_malformed (h : InputIs s text) (hle : text.length ≤ Config.maxLen)
    (hbad : malformedText (strippedText text) = true) :
    exec .h2b s = .next (complete .formatError (forgetObuf (dropOutput (noteUnwritten (operandLen s) s)))) :=
  exec_h2b_of_malformed (by rwa [operandLen_of_inputIs h]) (by rwa [h2bText_of_inputIs h])

theorem exec_h2b_of_inputIs_wellformed (h : InputIs s text) (hle : text.length ≤ Config.maxLen)
    (hgood : malformedText (strippedText text) = false) :
    exec .h2b s =
      .next (complete .ok (putBytes (pairBytes (strippedText text)) (noteUnwritten (operandLen s) s))) := by
  rw [exec_h2b_of_wellformed (by rwa [operandLen_of_inputIs h]) (by rwa [h2bText_of_inputIs h]), h2bText_of_inputIs h]

theorem exec_b2h_of_inputIs (h : InputIs s bs) (hle : bs.length ≤ Config.maxLen) :
    exec .b2h s = .next (complete .ok (putBytes (hexText bs) (noteUnwritten (operandLen s) s))) := by
  rw [exec_b2h_of_le_maxLen (operandPresent_of_inputIs h) (by rwa [operandLen_of_inputIs h]), operandBytes_of_inputIs h]

/-- B2H's output, where OLEN holds its length, is the hex text of the input. -/
theorem outputIs_exec_b2h (hle : bs.length ≤ Config.maxLen) (hfits : 3 * bs.length < 65536) (hin : InputIs s bs)
    (h : exec .b2h s = .next t) : OutputIs t (hexText bs) := by
  cases (exec_b2h_of_inputIs hin hle).symm.trans h
  exact outputIs_complete_putBytes (by rwa [hexText_length]) _

theorem pairBytes_strippedText_length_le (text : List Byte) :
    (pairBytes (strippedText text)).length ≤ text.length / 2 := by
  have hstrip : (strippedText text).length ≤ text.length := List.length_filter_le _ _
  rw [pairBytes_length]
  omega

/-- H2B's output on a text of digit pairs is the bytes of the pairs. -/
theorem outputIs_exec_h2b (hin : InputIs s text) (hle : text.length ≤ Config.maxLen)
    (hgood : malformedText (strippedText text) = false) (h : exec .h2b s = .next t) :
    OutputIs t (pairBytes (strippedText text)) := by
  have hpairs := pairBytes_strippedText_length_le text
  have hlen := length_lt_of_inputIs hin
  cases (exec_h2b_of_inputIs_wellformed hin hle hgood).symm.trans h
  exact outputIs_complete_putBytes (by omega) _

/-- H2B completes with OK exactly on a text of digit pairs. -/
theorem exec_h2b_ok_iff (hin : InputIs s text) (hle : text.length ≤ Config.maxLen) (h : exec .h2b s = .next t) :
    t.code = 0x0#4 ↔ malformedText (strippedText text) = false := by
  obtain hbad | hgood := Bool.eq_false_or_eq_true (malformedText (strippedText text))
  · cases (exec_h2b_of_inputIs_malformed hin hle hbad).symm.trans h
    simp [hbad, codeBits]
  · simp [hgood, (outputIs_exec_h2b hin hle hgood h).ok]

end

/-! ## Texts with equal digits -/

theorem malformedText_congr {t₁ t₂ : List Byte} (h : t₁.map digitValue = t₂.map digitValue) :
    malformedText t₁ = malformedText t₂ := by
  have hlen : t₁.length = t₂.length := by simpa using congrArg List.length h
  have hany (t : List Byte) : t.any (fun c => (digitValue c).isNone) = (t.map digitValue).any Option.isNone :=
    by rw [List.any_map]; rfl
  rw [malformedText, malformedText, hany, hany, hlen, h]

/-- Digits of equal value are equal to the pairs. -/
theorem hexval_congr {a b : Byte} (h : digitValue a = digitValue b) : hexval a = hexval b := by
  rw [digitValue_eq_hexval, digitValue_eq_hexval] at h
  exact Option.map_injective (fun _ _ => BitVec.eq_of_toNat_eq) h

theorem pairBytes_congr : ∀ {t₁ t₂ : List Byte}, t₁.map digitValue = t₂.map digitValue → pairBytes t₁ = pairBytes t₂
  | [], [], _ => rfl
  | [_], [_], _ => rfl
  | a :: b :: t₁, c :: d :: t₂, h => by
    simp only [List.map_cons, List.cons.injEq] at h
    obtain ⟨hac, hbd, ht⟩ := h
    rw [pairBytes, pairBytes, hexval_congr hac, hexval_congr hbd, pairBytes_congr ht]
  | [], _ :: _, h | _ :: _, [], h | [_], _ :: _ :: _, h | _ :: _ :: _, [_], h => by simp at h

/-! ## The statements -/

/-- Settles O39: the code says whether the text is one of digit pairs, and the output is the bytes of its pairs. -/
theorem h2bIgnoresCaseAndWhitespace : Obligations.H2bIgnoresCaseAndWhitespace := by
  refine ⟨fun s t text hin hle h => ⟨?_, ?_⟩, fun s₁ s₂ t₁ t₂ x₁ x₂ hin₁ hin₂ hle₁ hle₂ hdigits h₁ h₂ => ?_⟩
  · obtain hbad | hgood := Bool.eq_false_or_eq_true (malformedText (strippedText text))
    · cases (exec_h2b_of_inputIs_malformed hin hle hbad).symm.trans h
      exact Nat.zero_le _
    · rw [(outputIs_exec_h2b hin hle hgood h).len]
      exact pairBytes_strippedText_length_le text
  · simp only [exec_h2b_ok_iff hin hle h, malformedText_eq_false_iff, Option.isSome_iff_exists]
  have hsame := malformedText_congr hdigits
  obtain hbad | hgood := Bool.eq_false_or_eq_true (malformedText (strippedText x₁))
  · cases (exec_h2b_of_inputIs_malformed hin₁ hle₁ hbad).symm.trans h₁
    cases (exec_h2b_of_inputIs_malformed hin₂ hle₂ (hsame ▸ hbad)).symm.trans h₂
    exact ⟨rfl, rfl, rfl, fun _ _ => rfl⟩
  · have hout₁ := outputIs_exec_h2b hin₁ hle₁ hgood h₁
    have hout₂ := outputIs_exec_h2b hin₂ hle₂ (hsame ▸ hgood) h₂
    rw [← pairBytes_congr hdigits] at hout₂
    refine ⟨hout₁.ok.trans hout₂.ok.symm, BitVec.eq_of_toNat_eq (hout₁.len.trans hout₂.len.symm),
      hout₁.present.trans hout₂.present.symm, fun i hi => ?_⟩
    rw [hout₁.len] at hi
    exact (hout₁.bytes i hi).trans (hout₂.bytes i hi).symm

/-- Settles O38: the pairs of a rendered text are its bytes, and the digits of a pair's byte are the pair's. -/
theorem hexRoundTrips : Obligations.HexRoundTrips := by
  have hbounds := maxLen_bounds
  refine ⟨fun s t u bs out hle hin h hout hu => ?_, fun s t u text bs hin hle h hout hu hfits => ?_⟩
  · obtain rfl := outputIs_unique (outputIs_exec_b2h (by omega) (by omega) hin h) hout
    obtain ⟨v, hv⟩ := exec_completes .h2b u
    have hdecoded := outputIs_exec_h2b hu (by rwa [hexText_length]) (malformedText_strippedText_hexText bs) hv
    exact ⟨v, hv, pairBytes_strippedText_hexText bs ▸ hdecoded⟩
  · have hgood := (exec_h2b_ok_iff hin hle h).mp hout.ok
    obtain rfl := outputIs_unique (outputIs_exec_h2b hin hle hgood h) hout
    have hpairs := pairBytes_strippedText_length_le text
    obtain ⟨v, hv⟩ := exec_completes .b2h u
    refine ⟨v, _, hv, outputIs_exec_b2h (by omega) hfits hu hv, by rw [hexText_length, pairBytes_length],
      fun k hk => ?_⟩
    rw [← pairBytes_length] at hk
    obtain ⟨hi, lo, hhi, hlo, hbyte⟩ := pairBytes_getElem? ((malformedText_eq_false_iff _).mp hgood).2 hk
    obtain ⟨b, hb, hvalue⟩ := Option.map_eq_some_iff.mp hbyte
    obtain ⟨hhigh, hlow, hspace⟩ := hexText_getElem?_toNat hb
    obtain ⟨c, -, hc⟩ := Option.bind_eq_some_iff.mp hlo
    have hlt := digitValue_lt hc
    rw [hvalue, show (16 * hi + lo) / 16 = hi by omega] at hhigh
    rw [hvalue, show (16 * hi + lo) % 16 = lo by omega] at hlow
    exact ⟨⟨hi, hhi, hhigh⟩, ⟨lo, hlo, hlow⟩, hspace⟩

end Sys2Proof.Proofs
end
